-- ==== Sys2Proof/Word.lean ====
section
/-! DEFINITION. The words of the PSR block and the two small sets of names its fields carry
(spec/00_scope.md R5 to R9, spec/10_state.md R16 and R18). Every number is an unsigned bit vector of
stated width (R7). -/

namespace Sys2Proof

/-- A 32-bit word: the status word, the write data, the response data (R5: `PSR_WIDTH` = 32). -/
abbrev Word := BitVec 32

/-- A 5-bit command op code (R5: command op width 5). -/
abbrev OpCode := BitVec 5

/-- A 5-bit mode field pattern, legal or not (R5: `MODE_WIDTH` = 5; R17). -/
abbrev ModeCode := BitVec 5

/-- The packed condition flags, N in bit 3, Z in bit 2, C in bit 1, V in bit 0 (R49). -/
abbrev Nzcv := BitVec 4

/-- A whole command, op in bits 36:32 and write data in bits 31:0 (R41). -/
abbrev CmdWord := BitVec 37

/-- The seven processor modes (R9, R16). -/
inductive Mode where
  | usr
  | fiq
  | irq
  | svc
  | abt
  | und
  | sys
  deriving DecidableEq, Repr

/-- The execution state the T bit selects (R18). -/
inductive ExecState where
  | arm
  | thumb
  deriving DecidableEq, Repr

end Sys2Proof
end

