-- ==== Sys2Proof/Config.lean ====
section
/-! DEFINITION. The one open implementation parameter of the block, `MODE_WRITE_POLICY` (spec/00_scope.md R5,
spec/92_eei_decisions.md D6). It is a value of this type held in the state (notes/assumptions/2.md), so every
statement about all states is a statement about both policies. -/

namespace Sys2Proof

/-- How SET_MODE writes a legal code into bits 4:0 (R63). -/
inductive ModeWritePolicy where
  /-- Clear bits 4:0, then insert the code: the normative default. -/
  | replace
  /-- OR the code into bits 4:0 without clearing: the original behaviour, kept for trace parity. -/
  | orMerge
  deriving DecidableEq, Repr

/-- The default of `MODE_WRITE_POLICY` (R5). -/
def Config.defaultModeWritePolicy : ModeWritePolicy := .replace

end Sys2Proof
end

