-- ==== Sys2Proof/Machine/Psr.lean ====
section
/-! DEFINITION. The layout of the status word (spec/10_state.md R13 to R25) and the bit-field operations every
command's pseudocode is made of (spec/00_scope.md R6, R8). -/

namespace Sys2Proof.Machine

/-- `RESERVED_MASK`: bits 27:8 (R5). -/
def reservedMask : Word := 0x0FFFFF00#32

/-- `KEEP_MASK`: the complement of `RESERVED_MASK`, the 12 bits that hold storage (R5, R15). -/
def keepMask : Word := 0xF00000FF#32

/-- Bits 27:8 are wired to constant 0: what the 12 stored bits of a word read as (R15). -/
def wired (w : Word) : Word := w &&& keepMask

/-- The reset value of the whole word: I = F = 1, Supervisor, ARM, flags clear (R25). -/
def resetWord : Word := 0x000000D3#32

/-- The bit of the execution state T (R18). -/
def bitT : Nat := 5

/-- The bit of the FIQ-disable mask F (R19). -/
def bitF : Nat := 6

/-- The bit of the IRQ-disable mask I (R20). -/
def bitI : Nat := 7

/-- `zext_32` of one bit (R8, R51). -/
def zextBit (b : Bool) : Word := (BitVec.ofBool b).setWidth 32

/-- `v[k]` (R6). -/
def readBit (w : Word) (k : Nat) : Bool := w.getLsbD k

/-- The single-bit write of R59, R66, R68, R70, R72, R74 and R76:
`(w & ~(1 << k)) | (zext_32(b) << k)`. -/
def insertBit (k : Nat) (b : Bool) (w : Word) : Word :=
  (w &&& ~~~(1#32 <<< k)) ||| (zextBit b <<< k)

/-- The mode field `M = PSR[4:0]` (R16, R17). -/
def modeField (w : Word) : ModeCode := w.extractLsb' 0 5

/-- The two ways SET_MODE writes a legal code into bits 4:0 (R63). -/
def writeModeField (p : ModeWritePolicy) (code : ModeCode) (w : Word) : Word :=
  match p with
  | .replace => (w &&& 0xFFFFFFE0#32) ||| code.setWidth 32
  | .orMerge => w ||| code.setWidth 32

end Sys2Proof.Machine
end

