-- ==== Sys2Proof/Machine/Operands.lean ====
section
/-! DEFINITION. Every operand form of the command port: which bits of `wdata` a command uses and what they mean
(spec/30_encoding.md R42, R49 to R51), and the inverse placement an encoder needs. Nothing is sign-extended,
scaled or shifted. -/

namespace Sys2Proof.Machine

/-- The boolean operand `wdata[0]` (R51). -/
def boolOperand (wdata : Word) : Bool := readBit wdata 0

/-- The source's State-to-boolean mapping read from a bit: 0 is ARM, 1 is Thumb (R18, R51). -/
def stateOfBool (b : Bool) : ExecState := if b then .thumb else .arm

/-- The source's State-to-boolean mapping: ARM is 0, Thumb is 1 (R18, R51). -/
def boolOfState : ExecState → Bool
  | .arm => false
  | .thumb => true

/-- SET_STATE's operand (R51). -/
def stateOperand (wdata : Word) : ExecState := stateOfBool (boolOperand wdata)

/-- SET_MODE's operand `wdata[4:0]`, as it stands on the port (R50). -/
def modeOperand (wdata : Word) : ModeCode := wdata.extractLsb' 0 5

/-- SET_FLAGS's operand `wdata[3:0]` (R49). -/
def flagsOperand (wdata : Word) : Nzcv := wdata.extractLsb' 0 4

end Sys2Proof.Machine
end

