-- ==== Sys2Proof/Machine/ModeDecoder.lean ====
section
/-! DEFINITION. The mode decoder: spec/42_mode.md R60 and R61, spec/30_encoding.md R48, over the code table of
spec/10_state.md R16. -/

namespace Sys2Proof.Machine

/-- `ModeDecode` of R60: each of the seven legal codes to its mode, each other pattern to the distinguished
failure `none` (R60's `Invalid`), never to a default. -/
def modeDecode (code : ModeCode) : Option Mode :=
  match code.toNat with
  | 0b10000 => some .usr
  | 0b10001 => some .fiq
  | 0b10010 => some .irq
  | 0b10011 => some .svc
  | 0b10111 => some .abt
  | 0b11011 => some .und
  | 0b11111 => some .sys
  | _ => none

/-- The architectural code of a mode (R16). -/
def modeCode : Mode → ModeCode
  | .usr => 0b10000#5
  | .fiq => 0b10001#5
  | .irq => 0b10010#5
  | .svc => 0b10011#5
  | .abt => 0b10111#5
  | .und => 0b11011#5
  | .sys => 0b11111#5

/-- The value of `mode_valid_q` for a mode field (R61). -/
def modeValid (code : ModeCode) : Bool := (modeDecode code).isSome

/-- The place of a mode in the source's listing order, which is its bit of `mode_onehot_q` (R48). -/
def modeIndex : Mode → Nat
  | .usr => 0
  | .fiq => 1
  | .irq => 2
  | .svc => 3
  | .abt => 4
  | .und => 5
  | .sys => 6

/-- The value of `mode_onehot_q` for a mode field: zero when the pattern is illegal (R48). -/
def modeOneHot (code : ModeCode) : BitVec 7 :=
  match modeDecode code with
  | none => 0#7
  | some m => 1#7 <<< modeIndex m

/-- The three-letter architectural mnemonic of a mode (R9, R80). -/
def modeMnemonic : Mode → String
  | .usr => "USR"
  | .fiq => "FIQ"
  | .irq => "IRQ"
  | .svc => "SVC"
  | .abt => "ABT"
  | .und => "UND"
  | .sys => "SYS"

end Sys2Proof.Machine
end

