-- ==== Sys2Proof/Syntax.lean ====
section
/-! DEFINITION. The 22 commands of spec/30_encoding.md R43, one constructor per row of spec/opcode_table.json.
A constructor's argument is exactly the operand bits the command uses (R42). -/

namespace Sys2Proof

/-- A command of the block's command port. SET_MODE carries its raw 5-bit code, since the port can carry one
that is not legal (R50); whether it is legal is `Instr.WellFormed`. -/
inductive Instr where
  | nop
  | reset
  | get
  | set (value : Word)
  | getState
  | setState (state : ExecState)
  | getMode
  | setMode (code : ModeCode)
  | getIrqDis
  | setIrqDis (disabled : Bool)
  | getFiqDis
  | setFiqDis (disabled : Bool)
  | getN
  | setN (flag : Bool)
  | getZ
  | setZ (flag : Bool)
  | getC
  | setC (flag : Bool)
  | getV
  | setV (flag : Bool)
  | getFlags
  | setFlags (flags : Nzcv)
  deriving DecidableEq, Repr

end Sys2Proof
end

