-- ==== Sys2Proof/WellFormed.lean ====
section
/-! DEFINITION. Which commands carry a legal operand. The only illegal operand is a mode code that is not one of
the seven, given to SET_MODE (spec/30_encoding.md R42, R44, R50); every other operand is legal for its command. -/

namespace Sys2Proof

/-- The operand check of R44 and R50. An ill-formed command still decodes and still runs: it raises
ILLEGAL_OPERAND (spec/60_exceptions.md R85). -/
def Instr.wellFormed : Instr → Bool
  | .setMode code => Machine.modeValid code
  | .nop | .reset | .get | .set _ | .getState | .setState _ | .getMode
  | .getIrqDis | .setIrqDis _ | .getFiqDis | .setFiqDis _
  | .getN | .setN _ | .getZ | .setZ _ | .getC | .setC _ | .getV | .setV _
  | .getFlags | .setFlags _ => true

/-- The check as a proposition. -/
abbrev Instr.WellFormed (i : Instr) : Prop := i.wellFormed = true

end Sys2Proof
end

