-- ==== Sys2Proof/Decode.lean ====
section
/-! DEFINITION. The command decoder of spec/30_encoding.md R41 to R44, total on every 37-bit command, and the
encoder written from the same table. -/

namespace Sys2Proof

/-- Why a command has no instruction: its op code is one of the ten reserved ones (R44). -/
inductive DecodeError where
  | reservedOp (op : OpCode)
  deriving DecidableEq, Repr

/-- `cmd_op` of a 37-bit command (R41). -/
def cmdOp (c : CmdWord) : OpCode := c.extractLsb' 32 5

/-- `cmd_wdata` of a 37-bit command (R41). -/
def cmdWdata (c : CmdWord) : Word := c.extractLsb' 0 32

/-- The 37-bit command with this op and write data (R41). -/
def cmdWord (op : OpCode) (wdata : Word) : CmdWord := op ++ wdata

/-- The opcode map of R43, all five bits of `cmd_op` matched, each operand read as R42 says. -/
def decodeCommand (op : OpCode) (wdata : Word) : Except DecodeError Instr :=
  match op.toNat with
  | 0b00000 => .ok .nop
  | 0b00001 => .ok .reset
  | 0b00010 => .ok .get
  | 0b00011 => .ok (.set wdata)
  | 0b00100 => .ok .getState
  | 0b00101 => .ok (.setState (Machine.stateOperand wdata))
  | 0b00110 => .ok .getMode
  | 0b00111 => .ok (.setMode (Machine.modeOperand wdata))
  | 0b01000 => .ok .getIrqDis
  | 0b01001 => .ok (.setIrqDis (Machine.boolOperand wdata))
  | 0b01010 => .ok .getFiqDis
  | 0b01011 => .ok (.setFiqDis (Machine.boolOperand wdata))
  | 0b01100 => .ok .getN
  | 0b01101 => .ok (.setN (Machine.boolOperand wdata))
  | 0b01110 => .ok .getZ
  | 0b01111 => .ok (.setZ (Machine.boolOperand wdata))
  | 0b10000 => .ok .getC
  | 0b10001 => .ok (.setC (Machine.boolOperand wdata))
  | 0b10010 => .ok .getV
  | 0b10011 => .ok (.setV (Machine.boolOperand wdata))
  | 0b10100 => .ok .getFlags
  | 0b10101 => .ok (.setFlags (Machine.flagsOperand wdata))
  | _ => .error (.reservedOp op)

/-- The decoder on a whole command (R41). The T bit plays no part in it (R41, R53). -/
def decode (c : CmdWord) : Except DecodeError Instr := decodeCommand (cmdOp c) (cmdWdata c)

/-- The op code of a command (R43). -/
def opCode : Instr → OpCode
  | .nop => 0b00000#5
  | .reset => 0b00001#5
  | .get => 0b00010#5
  | .set _ => 0b00011#5
  | .getState => 0b00100#5
  | .setState _ => 0b00101#5
  | .getMode => 0b00110#5
  | .setMode _ => 0b00111#5
  | .getIrqDis => 0b01000#5
  | .setIrqDis _ => 0b01001#5
  | .getFiqDis => 0b01010#5
  | .setFiqDis _ => 0b01011#5
  | .getN => 0b01100#5
  | .setN _ => 0b01101#5
  | .getZ => 0b01110#5
  | .setZ _ => 0b01111#5
  | .getC => 0b10000#5
  | .setC _ => 0b10001#5
  | .getV => 0b10010#5
  | .setV _ => 0b10011#5
  | .getFlags => 0b10100#5
  | .setFlags _ => 0b10101#5

/-- The class column of R43: does the command write `PSR`? -/
def Instr.writes : Instr → Bool
  | .reset | .set _ | .setState _ | .setMode _ | .setIrqDis _ | .setFiqDis _
  | .setN _ | .setZ _ | .setC _ | .setV _ | .setFlags _ => true
  | .nop | .get | .getState | .getMode | .getIrqDis | .getFiqDis
  | .getN | .getZ | .getC | .getV | .getFlags => false

/-- The write data of a command, its ignored bits 0 (R42). -/
def operandBits : Instr → Word
  | .set value => value
  | .setState state => Machine.zextBit (Machine.boolOfState state)
  | .setMode code => code.setWidth 32
  | .setIrqDis b | .setFiqDis b | .setN b | .setZ b | .setC b | .setV b => Machine.zextBit b
  | .setFlags flags => flags.setWidth 32
  | .nop | .reset | .get | .getState | .getMode | .getIrqDis | .getFiqDis
  | .getN | .getZ | .getC | .getV | .getFlags => 0#32

/-- The encoder: the 37-bit command of an instruction, its ignored bits 0 (R41 to R43). -/
def encode (i : Instr) : CmdWord := cmdWord (opCode i) (operandBits i)

/-- The bits of `wdata` a command with this op code uses (R42); a reserved op code uses none. -/
def usedBits (op : OpCode) : Word :=
  match op.toNat with
  | 0b00011 => 0xFFFFFFFF#32
  | 0b00111 => 0x0000001F#32
  | 0b00101 | 0b01001 | 0b01011 | 0b01101 | 0b01111 | 0b10001 | 0b10011 => 0x00000001#32
  | 0b10101 => 0x0000000F#32
  | _ => 0#32

/-- The 37-bit command in a table word of `nbits` bits. The table counts whole bytes (40 bits for 37); bits above
36 reach no wire of the port (notes/assumptions/6.md). -/
def tableCommand (nbits w : Nat) : CmdWord := BitVec.ofNat 37 (w % 2 ^ nbits)

/-- What the decoder reads from a table word; `none` where it rejects the op code. -/
def decodeTableWord (nbits w : Nat) : Option Instr :=
  match decode (tableCommand nbits w) with
  | .ok i => some i
  | .error _ => none

end Sys2Proof
end

