-- ==== Sys2Proof/Machine/Flags.lean ====
section
/-! DEFINITION. The condition-flag extractor and packer (spec/44_condition_flags.md R77, R78,
spec/30_encoding.md R49) and the places of the four flags (spec/10_state.md R21 to R24). The block stores the
flags and computes none of them from results (spec/00_scope.md R4). -/

namespace Sys2Proof.Machine

/-- The bit of the overflow flag V (R21). -/
def bitV : Nat := 28

/-- The bit of the carry flag C (R22). -/
def bitC : Nat := 29

/-- The bit of the zero flag Z (R23). -/
def bitZ : Nat := 30

/-- The bit of the negative flag N (R24). -/
def bitN : Nat := 31

/-- The extractor: `PSR[31:28]`, which is the packed value (N, Z, C, V) with no reordering (R49, R77). -/
def extractFlags (w : Word) : Nzcv := w.extractLsb' 28 4

/-- The packer: `(PSR & 0x0FFFFFFF) | (zext_32(f) << 28)` (R78). -/
def packFlags (f : Nzcv) (w : Word) : Word := (w &&& 0x0FFFFFFF#32) ||| (f.setWidth 32 <<< 28)

end Sys2Proof.Machine
end

