-- ==== Sys2Proof/Machine/State.lean ====
section
/-! DEFINITION. Everything the spec gives the machine, as plain data: the status word, the reset-done premise, the
response of the last step, the model's fault log, the mode-write policy, and the client's schedule (what the
client will do in the coming steps). INVENTORY.md, '## State', lists each field with its rule and reset value. -/

namespace Sys2Proof.Machine

/-- The four response codes of `rsp_err` (spec/30_encoding.md R45). -/
inductive RspErr where
  | ok
  | invalidMode
  | illegalCommand
  | illegalOperand
  deriving DecidableEq, Repr

/-- The response of a step, `rsp_err` and `rsp_data` (R45, R46). -/
structure Response where
  err : RspErr
  data : Word
  deriving DecidableEq, Repr

/-- The three errors a command can raise, each with the value it reports (spec/60_exceptions.md R83 to R85). -/
inductive CommandError where
  /-- GET_MODE, or a typed read of the mode taps, while `PSR[4:0]` is this illegal pattern (R83). -/
  | invalidMode (pattern : ModeCode)
  /-- A command with this reserved op code (R84). -/
  | illegalCommand (op : OpCode)
  /-- SET_MODE with this illegal code (R85). -/
  | illegalOperand (code : ModeCode)
  deriving DecidableEq, Repr

/-- A fault as the spec uses the word: a record in the model's fault log that no later step clears (R82). A raise
does not end the run (spec/95_test_vectors.md P3 goes on after three of them), so no step answers
`Host.Outcome.fault`; a run whose log is not empty is no successful run (Safety.lean). Recording is safe: a claim
about successful runs has the empty log as its premise. -/
inductive Fault where
  /-- A command's raise (raised by GET_MODE, SET_MODE, a reserved op code), or the typed read of the mode taps in
  an illegal mode (raised by the client's tap read). Safe: the run is refuted. -/
  | error (e : CommandError)
  /-- A tap read before the first RESET (raised by the client's tap read; spec/70_reset_and_hazards.md R95).
  Safe: the run is refuted. -/
  | tapReadBeforeReset
  deriving DecidableEq, Repr

/-- Why the machine gives a step no meaning. -/
inductive Refusal where
  /-- An instruction whose meaning is not written yet. Raised by exec's arms only; safe. No arm uses it. -/
  | notModelled (mnemonic : String)
  /-- A command other than RESET before the first RESET (R95: "must refuse every command except RESET in that
  time"). Raised by every command but RESET; safe. -/
  | beforeReset
  /-- A second client of the same block (R92: "It gives no step to a second client of the same block: such a
  client is refused"). Raised by the port; safe. -/
  | secondClient
  deriving DecidableEq, Repr

/-- Who acts on the port in a step: the block's one client, or a second one, which R92 refuses. -/
inductive Client where
  | owner
  | second
  deriving DecidableEq, Repr

/-- What the client does with the taps in a step: nothing, reads them raw, or reads the mode taps as a typed mode
(spec/42_mode.md R61, R83, R95). -/
inductive TapRead where
  | none
  | raw
  | typedMode
  deriving DecidableEq, Repr

/-- What the client does in one step: the three input ports of spec/30_encoding.md R40 (`cmd_valid`, `cmd_op`,
`cmd_wdata`), and how it uses the taps. -/
structure ClientStep where
  client : Client
  tapRead : TapRead
  cmdValid : Bool
  cmdOp : OpCode
  cmdWdata : Word
  deriving DecidableEq, Repr

/-- The machine. `psr` is the block's only architectural state (R13). The rest is the environment and the model's
bookkeeping: it is not storage of the block (R28), and no command's effect on `psr` reads `rsp` or `faultLog`. -/
structure State where
  /-- The 32-bit status word, called `raw` by the source (R13). Read and written through `State.readPsr` and
  `State.writePsr` only, which wire bits 27:8 to 0 (R15). -/
  psr : Word
  /-- The launch premise "reset done" (R95): false only in the time before the first RESET. -/
  resetDone : Bool
  /-- The response port in the step just taken (R45); an output, not a latch: no step reads it. -/
  rsp : Response
  /-- The model's fault log, oldest first (R82, D18). -/
  faultLog : List Fault
  /-- `MODE_WRITE_POLICY` (R5), the same in every step of a run. -/
  policy : ModeWritePolicy
  /-- What the client does in the coming steps, next first (R36, R39); past its end the client presents no
  command. -/
  schedule : List ClientStep
  deriving DecidableEq, Repr

/-- The machine right after RESET under a given policy (R25, R55, R95): no fault recorded, nothing scheduled. -/
def State.launch (policy : ModeWritePolicy) : State where
  psr := resetWord
  resetDone := true
  rsp := { err := .ok, data := 0x00000000#32 }
  faultLog := []
  policy := policy
  schedule := []

/-- The machine right after RESET, with the default policy. -/
def State.reset : State := State.launch Config.defaultModeWritePolicy

/-- The time before the first RESET, where the status word is unspecified (R95): `unset` is any word at all. -/
def State.powerOn (policy : ModeWritePolicy) (unset : Word) : State :=
  { State.launch policy with psr := unset, resetDone := false }

end Sys2Proof.Machine
end

