-- ==== Sys2Proof/Machine/Ops.lean ====
section
/-! DEFINITION. The shared operations: the one read and the one write of the status word, the response, `raise`,
the gate of the time before reset, and the shapes of a command that the meanings are made of. -/

namespace Sys2Proof.Machine

/-- The outcome type of this machine. -/
abbrev Result := Host.Outcome State Fault Refusal

/-- A read of `PSR`: the 12 stored bits, with 0 in bits 27:8 (spec/10_state.md R15). -/
def State.readPsr (s : State) : Word := wired s.psr

/-- A write of `PSR`: bits 27:8 of the value are discarded (R14, R15). -/
def State.writePsr (s : State) (w : Word) : State := { s with psr := wired w }

/-- `rsp <- (err, data)` (spec/00_scope.md R8). -/
def State.respond (s : State) (err : RspErr) (data : Word) : State := { s with rsp := { err := err, data := data } }

/-- Record a fault; no step clears the log (spec/60_exceptions.md R82). -/
def State.logFault (s : State) (f : Fault) : State := { s with faultLog := s.faultLog ++ [f] }

/-- The 2-bit code of `rsp_err` (spec/30_encoding.md R45). -/
def rspErrCode : RspErr → BitVec 2
  | .ok => 0b00#2
  | .invalidMode => 0b01#2
  | .illegalCommand => 0b10#2
  | .illegalOperand => 0b11#2

/-- The response code of an error (R83 to R85). -/
def errorCode : CommandError → RspErr
  | .invalidMode _ => .invalidMode
  | .illegalCommand _ => .illegalCommand
  | .illegalOperand _ => .illegalOperand

/-- The information an error reports in `rsp_data`: the offending value, zero-extended (R83 to R85). -/
def errorInfo : CommandError → Word
  | .invalidMode pattern => pattern.setWidth 32
  | .illegalCommand op => op.setWidth 32
  | .illegalOperand code => code.setWidth 32

/-- `raise E(info)` (R82), the block's only exception: the response carries the error, `PSR` is unchanged, nothing
else of the block changes, and the model records the fault. -/
def State.raise (s : State) (e : CommandError) : State :=
  (s.respond (errorCode e) (errorInfo e)).logFault (.error e)

/-- Before the first RESET a command is refused (spec/70_reset_and_hazards.md R95). -/
def afterReset (s : State) (r : Result) : Result := if s.resetDone then r else .refused .beforeReset

/-- The shape of a command that only reads: its response is computed from the `PSR` held before the edge, and
`PSR` stays (R34, R39, R46). -/
def readCommand (data : Word → Word) (s : State) : Result :=
  afterReset s (.next (s.respond .ok (data s.readPsr)))

/-- The shape of a command that writes `PSR` as a function of its old value, with response (OK, 0) (R35, R46). -/
def writeCommand (update : Word → Word) (s : State) : Result :=
  afterReset s (.next ((s.writePsr (update s.readPsr)).respond .ok 0x00000000#32))

/-- The shape of a command that raises (R82). -/
def raiseCommand (e : CommandError) (s : State) : Result := afterReset s (.next (s.raise e))

/-- What reading the taps does to the fault log, in a step whose taps show this state: any read before the first
RESET is a fault (R95); a typed read of the mode taps while `mode_valid_q` = 0 is INVALID_MODE's fault (R61, R83);
every other read has no effect. -/
def State.observeTaps (s : State) (r : TapRead) : State :=
  match r with
  | .none => s
  | .raw => if s.resetDone then s else s.logFault .tapReadBeforeReset
  | .typedMode =>
    if s.resetDone then
      match modeDecode (modeField s.readPsr) with
      | some _ => s
      | none => s.logFault (.error (.invalidMode (modeField s.readPsr)))
    else s.logFault .tapReadBeforeReset

/-- A step without a command: `PSR` unchanged, response (OK, 0) (R39). -/
def State.idle (s : State) : State := s.respond .ok 0x00000000#32

end Sys2Proof.Machine
end

