-- ==== Sys2Proof/Machine/Bulk.lean ====
section
/-! DEFINITION. NOP, RESET, GET and SET (spec/40_bulk_access.md R54 to R57). -/

namespace Sys2Proof.Machine

/-- NOP (R54). -/
def execNop (s : State) : Result := readCommand (fun _ => 0x00000000#32) s

/-- RESET (R55): legal from any state, before the first RESET too (spec/70_reset_and_hazards.md R95). The fault
log stays, since no step clears it (spec/60_exceptions.md R82). -/
def execReset (s : State) : Result :=
  .next (({ s with resetDone := true }.writePsr resetWord).respond .ok 0x00000000#32)

/-- GET (R56). -/
def execGet (s : State) : Result := readCommand (fun psr => psr) s

/-- SET (R57): the write discards bits 27:8; an illegal mode pattern is stored as given. -/
def execSet (value : Word) (s : State) : Result := writeCommand (fun _ => value &&& keepMask) s

end Sys2Proof.Machine
end

