-- ==== Sys2Proof/Machine/CondFlags.lean ====
section
/-! DEFINITION. The condition-flag commands (spec/44_condition_flags.md R69 to R78). -/

namespace Sys2Proof.Machine

/-- GET_N (R69). -/
def execGetN (s : State) : Result := readCommand (fun psr => zextBit (readBit psr bitN)) s

/-- SET_N (R70). -/
def execSetN (flag : Bool) (s : State) : Result := writeCommand (insertBit bitN flag) s

/-- GET_Z (R71). -/
def execGetZ (s : State) : Result := readCommand (fun psr => zextBit (readBit psr bitZ)) s

/-- SET_Z (R72). -/
def execSetZ (flag : Bool) (s : State) : Result := writeCommand (insertBit bitZ flag) s

/-- GET_C (R73). -/
def execGetC (s : State) : Result := readCommand (fun psr => zextBit (readBit psr bitC)) s

/-- SET_C (R74). -/
def execSetC (flag : Bool) (s : State) : Result := writeCommand (insertBit bitC flag) s

/-- GET_V (R75). -/
def execGetV (s : State) : Result := readCommand (fun psr => zextBit (readBit psr bitV)) s

/-- SET_V (R76). -/
def execSetV (flag : Bool) (s : State) : Result := writeCommand (insertBit bitV flag) s

/-- GET_FLAGS, the extractor (R77). -/
def execGetFlags (s : State) : Result := readCommand (fun psr => (extractFlags psr).setWidth 32) s

/-- SET_FLAGS, the packer (R78). -/
def execSetFlags (flags : Nzcv) (s : State) : Result := writeCommand (packFlags flags) s

end Sys2Proof.Machine
end

