-- ==== Sys2Proof/Machine/ExecStateBit.lean ====
section
/-! DEFINITION. GET_STATE and SET_STATE (spec/41_state.md R58, R59). -/

namespace Sys2Proof.Machine

/-- GET_STATE (R58). -/
def execGetState (s : State) : Result := readCommand (fun psr => zextBit (readBit psr bitT)) s

/-- SET_STATE (R59). -/
def execSetState (state : ExecState) (s : State) : Result := writeCommand (insertBit bitT (boolOfState state)) s

end Sys2Proof.Machine
end

