-- ==== Sys2Proof/Machine/Masks.lean ====
section
/-! DEFINITION. GET_IRQ_DIS, SET_IRQ_DIS, GET_FIQ_DIS and SET_FIQ_DIS (spec/43_interrupt_masks.md R65 to R68). -/

namespace Sys2Proof.Machine

/-- GET_IRQ_DIS (R65). -/
def execGetIrqDis (s : State) : Result := readCommand (fun psr => zextBit (readBit psr bitI)) s

/-- SET_IRQ_DIS (R66). -/
def execSetIrqDis (disabled : Bool) (s : State) : Result := writeCommand (insertBit bitI disabled) s

/-- GET_FIQ_DIS (R67). -/
def execGetFiqDis (s : State) : Result := readCommand (fun psr => zextBit (readBit psr bitF)) s

/-- SET_FIQ_DIS (R68). -/
def execSetFiqDis (disabled : Bool) (s : State) : Result := writeCommand (insertBit bitF disabled) s

end Sys2Proof.Machine
end

