-- ==== Sys2Proof/Machine/ModeAccess.lean ====
section
/-! DEFINITION. GET_MODE and SET_MODE (spec/42_mode.md R62 to R64). -/

namespace Sys2Proof.Machine

/-- GET_MODE (R62): the legal code, or INVALID_MODE with the pattern. -/
def execGetMode (s : State) : Result :=
  match modeDecode (modeField s.readPsr) with
  | none => raiseCommand (.invalidMode (modeField s.readPsr)) s
  | some _ => readCommand (fun psr => (modeField psr).setWidth 32) s

/-- SET_MODE (R63): ILLEGAL_OPERAND for a code that is not legal; else the write `MODE_WRITE_POLICY` says. -/
def execSetMode (code : ModeCode) (s : State) : Result :=
  match modeDecode code with
  | none => raiseCommand (.illegalOperand code) s
  | some _ => writeCommand (writeModeField s.policy code) s

end Sys2Proof.Machine
end

