-- ==== Sys2Proof/Machine/Dispatch.lean ====
section
/-! DEFINITION. The meaning of each command, one arm per constructor of Instr. -/

namespace Sys2Proof.Machine

/-- The command's effect on the state its step starts from (spec/30_encoding.md R39). -/
def exec (i : Instr) (s : State) : Host.Outcome State Fault Refusal :=
  match i with
  | .nop => Sys2Proof.Machine.execNop s
  | .reset => Sys2Proof.Machine.execReset s
  | .get => Sys2Proof.Machine.execGet s
  | .set value => Sys2Proof.Machine.execSet value s
  | .getState => Sys2Proof.Machine.execGetState s
  | .setState state => Sys2Proof.Machine.execSetState state s
  | .getMode => Sys2Proof.Machine.execGetMode s
  | .setMode code => Sys2Proof.Machine.execSetMode code s
  | .getIrqDis => Sys2Proof.Machine.execGetIrqDis s
  | .setIrqDis disabled => Sys2Proof.Machine.execSetIrqDis disabled s
  | .getFiqDis => Sys2Proof.Machine.execGetFiqDis s
  | .setFiqDis disabled => Sys2Proof.Machine.execSetFiqDis disabled s
  | .getN => Sys2Proof.Machine.execGetN s
  | .setN flag => Sys2Proof.Machine.execSetN flag s
  | .getZ => Sys2Proof.Machine.execGetZ s
  | .setZ flag => Sys2Proof.Machine.execSetZ flag s
  | .getC => Sys2Proof.Machine.execGetC s
  | .setC flag => Sys2Proof.Machine.execSetC flag s
  | .getV => Sys2Proof.Machine.execGetV s
  | .setV flag => Sys2Proof.Machine.execSetV flag s
  | .getFlags => Sys2Proof.Machine.execGetFlags s
  | .setFlags flags => Sys2Proof.Machine.execSetFlags flags s

end Sys2Proof.Machine
end

