-- ==== Sys2Proof/Machine/Port.lean ====
section
/-! DEFINITION. The command port: what one client step does to the machine (spec/30_encoding.md R39, R44,
spec/60_exceptions.md R84, R92, spec/70_reset_and_hazards.md R95). -/

namespace Sys2Proof.Machine

/-- A command on the port: decode it, then run its rule; a reserved op code raises ILLEGAL_COMMAND (R39, R84). -/
def runCommand (op : OpCode) (wdata : Word) (s : State) : Result :=
  match decode (cmdWord op wdata) with
  | .ok i => exec i s
  | .error (.reservedOp op) => raiseCommand (.illegalCommand op) s

/-- One client step on a machine whose schedule is already past it. A second client is refused (R92). The taps
show the `PSR` held before the edge, so they are read first (R47). -/
def runClientStep (x : ClientStep) (s : State) : Result :=
  match x.client with
  | .second => .refused .secondClient
  | .owner =>
    if x.cmdValid then runCommand x.cmdOp x.cmdWdata (s.observeTaps x.tapRead)
    else .next (s.observeTaps x.tapRead).idle

/-- The owner presents this 37-bit command and does not use the taps. -/
def presentCommand (c : CmdWord) : ClientStep where
  client := .owner
  tapRead := .none
  cmdValid := true
  cmdOp := cmdOp c
  cmdWdata := cmdWdata c

/-- The owner presents no command and does not use the taps; the values on `cmd_op` and `cmd_wdata` are ignored. -/
def presentNothing (op : OpCode) (wdata : Word) : ClientStep where
  client := .owner
  tapRead := .none
  cmdValid := false
  cmdOp := op
  cmdWdata := wdata

end Sys2Proof.Machine
end

