-- ==== Sys2Proof/Machine/Step.lean ====
section
/-! DEFINITION. One step of the machine, that is one rising edge of `clk` (spec/30_encoding.md R39). -/

namespace Sys2Proof.Machine

/-- One step: the client's next scheduled step acts on the machine (R36, R39); with nothing scheduled the client
presents no command. -/
def step (s : State) : Host.Outcome State Fault Refusal :=
  match s.schedule with
  | [] => .next s.idle
  | x :: rest => runClientStep x { s with schedule := rest }

/-- The machine whose next step runs the command in a table word: the owner presents it in the next step, and
then goes on with its schedule (notes/assumptions/4.md). -/
def State.withFetchWord (s : State) (nbits w : Nat) : State :=
  { s with schedule := presentCommand (tableCommand nbits w) :: s.schedule }

end Sys2Proof.Machine
end

