-- ==== Sys2Proof/Machine/Diagnostic.lean ====
section
/-! DEFINITION. The diagnostic field view (spec/45_diagnostic_view.md R80, R81): the structured value of five named
fields. Its text format is no contract (R81, spec/00_scope.md R4), so none is fixed here. -/

namespace Sys2Proof.Machine

/-- The `mode` field: a decoded mode, or the raw illegal pattern, never a guessed mnemonic (R81). -/
inductive ModeView where
  | known (mode : Mode)
  | invalid (pattern : ModeCode)
  deriving DecidableEq, Repr

/-- The rendering of an interrupt mask (R80). -/
inductive MaskView where
  | enabled
  | disabled
  deriving DecidableEq, Repr

/-- The four flags as single bits, in the order N, Z, C, V (R80). -/
structure FlagsView where
  n : Bool
  z : Bool
  c : Bool
  v : Bool
  deriving DecidableEq, Repr

/-- The five fields of the view (R80). -/
structure DiagnosticView where
  mode : ModeView
  state : ExecState
  irq : MaskView
  fiq : MaskView
  conditionFlags : FlagsView
  deriving DecidableEq, Repr

/-- What the view shows for a mask bit: 1 is disabled (R80). -/
def maskView (bit : Bool) : MaskView := if bit then .disabled else .enabled

/-- What the view shows for a mode field (R80, R81). -/
def modeView (code : ModeCode) : ModeView :=
  match modeDecode code with
  | some m => .known m
  | none => .invalid code

/-- The view of a `PSR` word; computing it never raises and changes nothing (R80, R81). -/
def diagnosticView (psr : Word) : DiagnosticView where
  mode := modeView (modeField psr)
  state := stateOfBool (readBit psr bitT)
  irq := maskView (readBit psr bitI)
  fiq := maskView (readBit psr bitF)
  conditionFlags :=
    { n := readBit psr bitN, z := readBit psr bitZ, c := readBit psr bitC, v := readBit psr bitV }

/-- The five binary digits of a mode pattern, most significant first. -/
def binaryDigits (code : ModeCode) : String :=
  String.ofList ([4, 3, 2, 1, 0].map fun k => if code.getLsbD k then '1' else '0')

/-- The text the `mode` field shows: the mnemonic, or `INVALID(0bxxxxx)` with the raw pattern (R80, R81). -/
def modeViewText : ModeView → String
  | .known m => modeMnemonic m
  | .invalid code => "INVALID(0b" ++ binaryDigits code ++ ")"

/-- The text the `state` field shows (R80). -/
def stateViewText : ExecState → String
  | .arm => "ARM"
  | .thumb => "THUMB"

/-- The text the `irq` and `fiq` fields show (R80). -/
def maskViewText : MaskView → String
  | .enabled => "enabled"
  | .disabled => "disabled"

/-- A single digit 0 or 1 (R80). -/
def digitText (b : Bool) : String := if b then "1" else "0"

/-- The text the `condition_flags` field shows (R80). -/
def flagsViewText (f : FlagsView) : String :=
  "(N=" ++ digitText f.n ++ " Z=" ++ digitText f.z ++ " C=" ++ digitText f.c ++ " V=" ++ digitText f.v ++ ")"

end Sys2Proof.Machine
end

