-- ==== Sys2Proof/Machine/Taps.lean ====
section
/-! DEFINITION. The taps: combinational functions of the current `PSR` (spec/30_encoding.md R40, R47, R48,
spec/42_mode.md R61), and the two ways a client reads them. -/

namespace Sys2Proof.Machine

/-- The tap ports of R40. -/
structure Taps where
  psrQ : Word
  mQ : ModeCode
  modeValidQ : Bool
  modeOneHotQ : BitVec 7
  tQ : Bool
  fQ : Bool
  iQ : Bool
  vQ : Bool
  cQ : Bool
  zQ : Bool
  nQ : Bool
  flagsQ : Nzcv
  deriving DecidableEq, Repr

/-- The taps as functions of the word `PSR` reads as (R40, R47). -/
def tapsOf (psr : Word) : Taps where
  psrQ := psr
  mQ := modeField psr
  modeValidQ := modeValid (modeField psr)
  modeOneHotQ := modeOneHot (modeField psr)
  tQ := readBit psr bitT
  fQ := readBit psr bitF
  iQ := readBit psr bitI
  vQ := readBit psr bitV
  cQ := readBit psr bitC
  zQ := readBit psr bitZ
  nQ := readBit psr bitN
  flagsQ := extractFlags psr

/-- A raw read of the taps: before the first RESET it is a fault, never a value (R95). -/
def State.readTaps (s : State) : Except Fault Taps :=
  if s.resetDone then .ok (tapsOf s.readPsr) else .error .tapReadBeforeReset

/-- A typed read of the mode taps: a fault, not a value, while `mode_valid_q` = 0 (R61, R83). -/
def State.readModeTaps (s : State) : Except Fault Mode :=
  if s.resetDone then
    match modeDecode (modeField s.readPsr) with
    | some m => .ok m
    | none => .error (.error (.invalidMode (modeField s.readPsr)))
  else .error .tapReadBeforeReset

end Sys2Proof.Machine
end

