-- ==== Sys2Proof/Safety.lean ====
section
/-! DEFINITION. What counts as a successful run, the block's invariant, and the client's obligations, in the terms
statements use. -/

namespace Sys2Proof

open Machine

/-- The block's only self-enforced invariant: `PSR & 0x0FFFFF00 = 0` (spec/10_state.md R14). -/
abbrev Machine.State.ReservedZero (s : State) : Prop := s.psr &&& 0x0FFFFF00#32 = 0#32

/-- The mode field holds one of the seven legal codes. Not an invariant (R17, spec/90_conflicts.md C5): a
precondition of a typed mode read. -/
abbrev Machine.State.LegalMode (s : State) : Prop := modeValid (modeField s.readPsr) = true

/-- A word a client may give to SET so that a later typed mode read succeeds (spec/70_reset_and_hazards.md R98). -/
abbrev LegalModeWord (w : Word) : Prop := modeValid (modeField w) = true

/-- Run commands one after another, one per step, stopping at the first that answers no next state (R36). -/
def runAll : List Instr → State → Result
  | [], s => .next s
  | i :: rest, s =>
    match exec i s with
    | .next t => runAll rest t
    | .fault f => .fault f
    | .refused r => .refused r

/-- A run of `n` steps that ends in a state with no recorded fault: the only kind that is a success
(spec/60_exceptions.md R82). -/
def SuccessfulRun (n : Nat) (s t : State) : Prop := core.run n s = .next t ∧ t.faultLog = []

end Sys2Proof
end

