-- ==== Sys2Proof/Certificates/Slice0/Obligations.lean ====
section
/-! DEFINITION. The statements for the provers. Each docstring names the rules of spec/ its statement formalises.
Masks and bit numbers are written out as the rules write them, not by the model's names. `s.readPsr` is what the
spec's `PSR` reads as (R15).

Where a statement speaks of a step, what the client does in it stands at the head of the schedule, and whether it reads
the taps is part of that entry: both are the model's choice (notes/assumptions/4.md and 8.md). -/

namespace Sys2Proof.Stated

open Sys2Proof.Machine

/-- Whatever the write data, a command with this op code decodes to this instruction. -/
def DecodesTo (op : BitVec 5) (i : BitVec 32 → Instr) : Prop :=
  ∀ wdata : BitVec 32, decode (op ++ wdata) = .ok (i wdata)

/-- The command reads: it answers next with response (OK, data), and nothing else of the state is changed. -/
def Reads (i : Instr) (s : State) (data : BitVec 32) : Prop :=
  exec i s = .next { s with rsp := { err := .ok, data := data } }

/-- The command writes: it answers next with this new `PSR` and response (OK, 0), and nothing else of the state is
changed. -/
def Writes (i : Instr) (s : State) (psr : BitVec 32) : Prop :=
  exec i s = .next { s with psr := psr, rsp := { err := .ok, data := 0x00000000#32 } }

/-- The command raises: it answers next with this response and the error recorded at the end of the fault log, and
nothing else of the state is changed (R82). -/
def Raises (i : Instr) (s : State) (err : RspErr) (data : BitVec 32) (e : CommandError) : Prop :=
  exec i s = .next { s with rsp := { err := err, data := data }, faultLog := s.faultLog ++ [.error e] }

/-- The state this step of the client is taken in, at the head of a schedule. -/
def facing (s : State) (x : ClientStep) (rest : List ClientStep) : State := { s with schedule := x :: rest }

/-- The client presents this command and uses the taps in this way. -/
def command (r : TapRead) (op : BitVec 5) (wdata : BitVec 32) : ClientStep :=
  { client := .owner, tapRead := r, cmdValid := true, cmdOp := op, cmdWdata := wdata }

/-- The client presents no command (`cmd_valid` = 0) and does not use the taps. -/
def noCommand (op : BitVec 5) (wdata : BitVec 32) : ClientStep :=
  { client := .owner, tapRead := .none, cmdValid := false, cmdOp := op, cmdWdata := wdata }

/-- The commands of R34 that only read, NOP among them. -/
def readCommands : List Instr :=
  [.nop, .get, .getState, .getMode, .getIrqDis, .getFiqDis, .getN, .getZ, .getC, .getV, .getFlags]

/-- The least bit and the width of the field a field write command writes (R35, R13); RESET, SET and the read
commands are no field write commands. -/
def writtenField : Instr → Option (Nat × Nat)
  | .setMode _ => some (0, 5)
  | .setState _ => some (5, 1)
  | .setFiqDis _ => some (6, 1)
  | .setIrqDis _ => some (7, 1)
  | .setV _ => some (28, 1)
  | .setC _ => some (29, 1)
  | .setZ _ => some (30, 1)
  | .setN _ => some (31, 1)
  | .setFlags _ => some (28, 4)
  | _ => none

/-- The state without its status word in the time before the first RESET, when that word is unspecified (R95). -/
def forgetUnsetPsr (s : State) : State := if s.resetDone then s else { s with psr := 0x00000000#32 }

/-- A function of states applied to an outcome's next state. -/
def mapNext (f : State → State) : Result → Result
  | .next s => .next (f s)
  | .fault r => .fault r
  | .refused r => .refused r

/-- The word with its mode field replaced. -/
def withModeField (w : BitVec 32) (code : BitVec 5) : BitVec 32 := (w &&& 0xFFFFFFE0#32) ||| code.setWidth 32

/-- A read of one flag: its bit number and its command (R69, R71, R73, R75). -/
def flagReaders : List (Nat × Instr) := [(31, .getN), (30, .getZ), (29, .getC), (28, .getV)]

/-- A write of one flag: its bit number and its command (R70, R72, R74, R76). -/
def flagWriters : List (Nat × (Bool → Instr)) := [(31, .setN), (30, .setZ), (29, .setC), (28, .setV)]

/-- The seven legal codes in the source's listing order (R16, R48). -/
def legalCodes : List (BitVec 5 × Mode) :=
  [(0b10000#5, .usr), (0b10001#5, .fiq), (0b10010#5, .irq), (0b10011#5, .svc), (0b10111#5, .abt),
    (0b11011#5, .und), (0b11111#5, .sys)]

end Sys2Proof.Stated

open Sys2Proof Sys2Proof.Machine Sys2Proof.Stated

/-- R25: what RESET leaves, field by field and as a word, and that the launch state holds the same word. -/
def Obligations.ResetLeavesTheResetFields : Prop :=
  State.reset.psr = 0x000000D3#32 ∧
  ∀ s, ∃ t, exec .reset s = .next t ∧
    t.psr = 0x000000D3#32 ∧
    t.psr.getLsbD 7 = true ∧ t.psr.getLsbD 6 = true ∧
    t.psr.extractLsb' 0 5 = 0b10011#5 ∧ modeDecode (t.psr.extractLsb' 0 5) = some .svc ∧
    t.psr.getLsbD 5 = false ∧
    t.psr.getLsbD 31 = false ∧ t.psr.getLsbD 30 = false ∧ t.psr.getLsbD 29 = false ∧ t.psr.getLsbD 28 = false ∧
    t.psr.extractLsb' 8 20 = 0#20

/-- R54: NOP answers (OK, 0), changes nothing, whatever its write data, and a step with it ends as a step with
`cmd_valid` = 0 does. -/
def Obligations.NopIsAnIdleStep : Prop :=
  DecodesTo 0b00000#5 (fun _ => .nop) ∧
  (∀ s : State, s.resetDone = true → Reads .nop s 0x00000000#32) ∧
  (∀ (s : State) (rest : List ClientStep) (w op' w'), s.resetDone = true →
    step (facing s (command .none 0b00000#5 w) rest) = step (facing s (noCommand op' w') rest))

/-- R55: RESET is legal from any state, one with an illegal mode or before the first RESET included; it overwrites
every stored bit, so the result does not depend on the old `PSR`; a second RESET gives the same state as one. -/
def Obligations.ResetOverwritesEveryStoredBit : Prop :=
  DecodesTo 0b00001#5 (fun _ => .reset) ∧
  (∀ s : State, ∃ t, exec .reset s = .next t ∧ t.psr = 0x000000D3#32 ∧
    t.rsp = { err := .ok, data := 0x00000000#32 } ∧ exec .reset t = .next t) ∧
  (∀ (s : State) (p q : BitVec 32), exec .reset { s with psr := p } = exec .reset { s with psr := q })

/-- The frame of RESET, with the model's own fields: the reset-done premise becomes true (R95), and the fault log, the
policy and the schedule stay (R82, R5; notes/assumptions/3.md says that RESET clears no log). -/
def Obligations.ResetFrame : Prop :=
  ∀ s : State, exec .reset s =
    .next { s with psr := 0x000000D3#32, resetDone := true, rsp := { err := .ok, data := 0x00000000#32 } }

/-- R56: GET answers the whole `PSR`, exactly as stored where the reserved bits are 0, in legal and illegal modes;
bits 27:8 of the answer are 0, and it equals tap `psr_q` in the same step. -/
def Obligations.GetReadsTheWholeWord : Prop :=
  DecodesTo 0b00010#5 (fun _ => .get) ∧
  ∀ s : State, s.resetDone = true →
    Reads .get s s.readPsr ∧
    (s.ReservedZero → Reads .get s s.psr) ∧
    s.readPsr.extractLsb' 8 20 = 0#20 ∧
    s.readTaps.map (fun taps => taps.psrQ) = .ok s.readPsr

/-- R57: SET stores `wdata & 0xF00000FF`, never fails, and with GET obeys the round-trip law in both orders. -/
def Obligations.SetStoresTheMaskedWord : Prop :=
  DecodesTo 0b00011#5 (fun wdata => .set wdata) ∧
  (∀ (s : State) (v : BitVec 32), s.resetDone = true → Writes (.set v) s (v &&& 0xF00000FF#32)) ∧
  (∀ (s t : State) (v : BitVec 32), s.resetDone = true → exec (.set v) s = .next t →
    Reads .get t (v &&& 0xF00000FF#32)) ∧
  (∀ s : State, s.resetDone = true → s.ReservedZero →
    ∃ t u, exec .get s = .next t ∧ exec (.set t.rsp.data) t = .next u ∧ u.psr = s.psr)

/-- R58: GET_STATE answers bit 5, whatever the mode field. -/
def Obligations.GetStateReadsBitFive : Prop :=
  DecodesTo 0b00100#5 (fun _ => .getState) ∧
  ∀ s : State, s.resetDone = true → Reads .getState s ((s.readPsr.extractLsb' 5 1).setWidth 32)

/-- R59: SET_STATE writes `wdata[0]` into bit 5 and nothing else, in every mode; writing the held value leaves
`PSR`; GET_STATE then answers what was written. -/
def Obligations.SetStateWritesBitFive : Prop :=
  (∀ wdata : BitVec 32,
    decode (0b00101#5 ++ wdata) = .ok (.setState (if wdata.getLsbD 0 then .thumb else .arm))) ∧
  (∀ s : State, s.resetDone = true →
    Writes (.setState .arm) s ((s.readPsr &&& ~~~0x00000020#32) ||| (0#32 <<< 5)) ∧
    Writes (.setState .thumb) s ((s.readPsr &&& ~~~0x00000020#32) ||| (1#32 <<< 5))) ∧
  (∀ (s t : State) (x : ExecState), s.resetDone = true → exec (.setState x) s = .next t →
    (s.readPsr.getLsbD 5 = decide (x = .thumb) → t.readPsr = s.readPsr) ∧
    exec (.setState x) t = .next t ∧
    Reads .getState t (if x = .thumb then 1#32 else 0#32))

/-- R60 and R48: the whole table of the mode decoder. The seven codes decode to their modes and every other pattern
to the distinguished failure; `mode_valid_q` and `mode_onehot_q` follow, the one-hot bit in the listing order. -/
def Obligations.ModeDecoderTable : Prop :=
  (∀ c m, modeDecode c = some m ↔ (c, m) ∈ legalCodes) ∧
  (∀ c, modeValid c = true ↔ c ∈ legalCodes.map Prod.fst) ∧
  (∀ c (k : Fin 7), (modeOneHot c).getLsbD k = true ↔ (legalCodes.map Prod.fst)[k.val]? = some c) ∧
  (∀ c, modeValid c = false → modeOneHot c = 0b0000000#7) ∧
  (∀ c (j k : Fin 7), (modeOneHot c).getLsbD j = true → (modeOneHot c).getLsbD k = true → j = k)

/-- R62: GET_MODE answers the legal code, or raises INVALID_MODE with the illegal pattern, `PSR` unchanged. -/
def Obligations.GetModeAnswersOrRaises : Prop :=
  DecodesTo 0b00110#5 (fun _ => .getMode) ∧
  ∀ s : State, s.resetDone = true →
    ((∃ m, (s.readPsr.extractLsb' 0 5, m) ∈ legalCodes) →
      Reads .getMode s ((s.readPsr.extractLsb' 0 5).setWidth 32)) ∧
    ((∀ m, (s.readPsr.extractLsb' 0 5, m) ∉ legalCodes) →
      Raises .getMode s .invalidMode ((s.readPsr.extractLsb' 0 5).setWidth 32)
        (.invalidMode (s.readPsr.extractLsb' 0 5)))

/-- R63: SET_MODE with a legal code, under each policy, and with an illegal one; GET_MODE after it under `Replace`
from any old field; under `OrMerge` the result is the code only where the old field's set bits are a subset of
it; the mode already held leaves `PSR` under either policy. -/
def Obligations.SetModeWritesByPolicy : Prop :=
  (∀ wdata : BitVec 32, decode (0b00111#5 ++ wdata) = .ok (.setMode (wdata.extractLsb' 0 5))) ∧
  ∀ (s : State) (code : BitVec 5), s.resetDone = true →
    ((∀ m, (code, m) ∉ legalCodes) →
      Raises (.setMode code) s .illegalOperand (code.setWidth 32) (.illegalOperand code)) ∧
    ((∃ m, (code, m) ∈ legalCodes) →
      (s.policy = .replace →
        Writes (.setMode code) s ((s.readPsr &&& 0xFFFFFFE0#32) ||| code.setWidth 32)) ∧
      (s.policy = .orMerge → Writes (.setMode code) s (s.readPsr ||| code.setWidth 32)) ∧
      (∃ t, exec (.setMode code) s = .next t ∧
        (s.policy = .replace → Reads .getMode t (code.setWidth 32)) ∧
        (s.policy = .orMerge → (t.readPsr.extractLsb' 0 5 = code ↔ s.readPsr.extractLsb' 0 5 &&& ~~~code = 0#5)) ∧
        (s.readPsr.extractLsb' 0 5 = code → t.readPsr = s.readPsr)))

/-- R64: under `OrMerge` SET_MODE stores the OR of the old field and the code. From a legal field the result is legal
(1); it is the code exactly where the old field's set bits are a subset of it, which holds from USR, to SYS, and from
a mode to itself (2); the rows of R64's table (3); from an illegal field the result can stay illegal (4). -/
def Obligations.OrMergeKeepsLegalButCanMissTheMode : Prop :=
  (∀ (s : State) (m : BitVec 5), s.resetDone = true → s.policy = .orMerge → modeValid m = true →
    ∃ t, exec (.setMode m) s = .next t ∧
      t.readPsr.extractLsb' 0 5 = s.readPsr.extractLsb' 0 5 ||| m ∧ (s.LegalMode → t.LegalMode)) ∧
  (∀ p m, modeValid p = true → modeValid m = true → modeValid (p ||| m) = true) ∧
  (∀ p m : BitVec 5, p ||| m = m ↔ p &&& ~~~m = 0#5) ∧
  (∀ m, modeValid m = true → 0b10000#5 ||| m = m ∧ m ||| 0b11111#5 = 0b11111#5 ∧ m ||| m = m) ∧
  modeDecode (0b10000#5 ||| 0b11111#5) = some .sys ∧
  modeDecode (0b11111#5 ||| 0b10000#5) = some .sys ∧
  modeDecode (0b10001#5 ||| 0b10010#5) = some .svc ∧
  modeDecode (0b10010#5 ||| 0b10001#5) = some .svc ∧
  modeDecode (0b10011#5 ||| 0b10000#5) = some .svc ∧
  modeDecode (0b10111#5 ||| 0b11011#5) = some .sys ∧
  modeDecode (0b10011#5 ||| 0b10010#5) = some .svc ∧
  modeDecode (0b01100#5 ||| 0b10000#5) = none

/-- R65: GET_IRQ_DIS answers bit 7, whatever the mode field. -/
def Obligations.GetIrqDisReadsBitSeven : Prop :=
  DecodesTo 0b01000#5 (fun _ => .getIrqDis) ∧
  ∀ s : State, s.resetDone = true → Reads .getIrqDis s ((s.readPsr.extractLsb' 7 1).setWidth 32)

/-- R66: only bit 7 changes, whatever the mode; writing the held value leaves `PSR`. -/
def Obligations.SetIrqDisWritesBitSeven : Prop :=
  DecodesTo 0b01001#5 (fun wdata => .setIrqDis (wdata.getLsbD 0)) ∧
  ∀ (s : State) (b : Bool), s.resetDone = true →
    Writes (.setIrqDis b) s ((s.readPsr &&& ~~~0x00000080#32) ||| ((BitVec.ofBool b).setWidth 32 <<< 7)) ∧
    (s.readPsr.getLsbD 7 = b → Writes (.setIrqDis b) s s.readPsr)

/-- R67: GET_FIQ_DIS answers bit 6, whatever the mode field. -/
def Obligations.GetFiqDisReadsBitSix : Prop :=
  DecodesTo 0b01010#5 (fun _ => .getFiqDis) ∧
  ∀ s : State, s.resetDone = true → Reads .getFiqDis s ((s.readPsr.extractLsb' 6 1).setWidth 32)

/-- R68: only bit 6 changes, whatever the mode; writing the held value leaves `PSR`. -/
def Obligations.SetFiqDisWritesBitSix : Prop :=
  DecodesTo 0b01011#5 (fun wdata => .setFiqDis (wdata.getLsbD 0)) ∧
  ∀ (s : State) (b : Bool), s.resetDone = true →
    Writes (.setFiqDis b) s ((s.readPsr &&& ~~~0x00000040#32) ||| ((BitVec.ofBool b).setWidth 32 <<< 6)) ∧
    (s.readPsr.getLsbD 6 = b → Writes (.setFiqDis b) s s.readPsr)

/-- R69, R71, R73, R75: each flag read answers its own bit, whatever the mode field. -/
def Obligations.FlagReadsAnswerTheirBits : Prop :=
  DecodesTo 0b01100#5 (fun _ => .getN) ∧ DecodesTo 0b01110#5 (fun _ => .getZ) ∧
  DecodesTo 0b10000#5 (fun _ => .getC) ∧ DecodesTo 0b10010#5 (fun _ => .getV) ∧
  ∀ s : State, s.resetDone = true →
    Reads .getN s ((s.readPsr.extractLsb' 31 1).setWidth 32) ∧
    Reads .getZ s ((s.readPsr.extractLsb' 30 1).setWidth 32) ∧
    Reads .getC s ((s.readPsr.extractLsb' 29 1).setWidth 32) ∧
    Reads .getV s ((s.readPsr.extractLsb' 28 1).setWidth 32)

/-- R70, R72, R74, R76: each flag write stores `wdata[0]` in its own bit and changes no other. Of a flag that is clear
at first, setting 1 then 0 returns `PSR` to its first value, as the rules word it; `FlagWriteOfTheOldValueRestores` is
the wider reading. -/
def Obligations.FlagWritesStoreTheirBits : Prop :=
  DecodesTo 0b01101#5 (fun wdata => .setN (wdata.getLsbD 0)) ∧
  DecodesTo 0b01111#5 (fun wdata => .setZ (wdata.getLsbD 0)) ∧
  DecodesTo 0b10001#5 (fun wdata => .setC (wdata.getLsbD 0)) ∧
  DecodesTo 0b10011#5 (fun wdata => .setV (wdata.getLsbD 0)) ∧
  (∀ (s : State) (b : Bool), s.resetDone = true →
    Writes (.setN b) s ((s.readPsr &&& ~~~0x80000000#32) ||| ((BitVec.ofBool b).setWidth 32 <<< 31)) ∧
    Writes (.setZ b) s ((s.readPsr &&& ~~~0x40000000#32) ||| ((BitVec.ofBool b).setWidth 32 <<< 30)) ∧
    Writes (.setC b) s ((s.readPsr &&& ~~~0x20000000#32) ||| ((BitVec.ofBool b).setWidth 32 <<< 29)) ∧
    Writes (.setV b) s ((s.readPsr &&& ~~~0x10000000#32) ||| ((BitVec.ofBool b).setWidth 32 <<< 28))) ∧
  (∀ (s : State) (k : Nat) (set : Bool → Instr), s.resetDone = true → (k, set) ∈ flagWriters →
    s.readPsr.getLsbD k = false →
    ∃ t u, exec (set true) s = .next t ∧ exec (set false) t = .next u ∧ u.readPsr = s.readPsr)

/-- The model's reading (notes/assumptions/12.md, DEDUCED) of the corner case of R70, R72, R74 and R76, with their
source's 'or vice versa': a write of any value to a flag, then a write of the value it held at first, gives back
`PSR`. -/
def Obligations.FlagWriteOfTheOldValueRestores : Prop :=
  ∀ (s : State) (k : Nat) (set : Bool → Instr) (b : Bool), s.resetDone = true → (k, set) ∈ flagWriters →
    ∃ t u, exec (set b) s = .next t ∧ exec (set (s.readPsr.getLsbD k)) t = .next u ∧ u.readPsr = s.readPsr

/-- R77: GET_FLAGS answers `PSR[31:28]`, which equals tap `flags_q`; bits 31:4 of the answer are 0. -/
def Obligations.GetFlagsReadsTheNibble : Prop :=
  DecodesTo 0b10100#5 (fun _ => .getFlags) ∧
  ∀ s : State, s.resetDone = true →
    Reads .getFlags s ((s.readPsr.extractLsb' 28 4).setWidth 32) ∧
    s.readTaps.map (fun taps => taps.flagsQ) = .ok (s.readPsr.extractLsb' 28 4)

/-- R78: SET_FLAGS writes the four flags in one step and keeps I, F, T and M, even an illegal M. -/
def Obligations.SetFlagsWritesTheNibble : Prop :=
  DecodesTo 0b10101#5 (fun wdata => .setFlags (wdata.extractLsb' 0 4)) ∧
  ∀ (s : State) (f : BitVec 4), s.resetDone = true →
    Writes (.setFlags f) s ((s.readPsr &&& 0x0FFFFFFF#32) ||| (f.setWidth 32 <<< 28)) ∧
    ∃ t, exec (.setFlags f) s = .next t ∧ t.readPsr.extractLsb' 28 4 = f ∧
      t.readPsr.extractLsb' 0 8 = s.readPsr.extractLsb' 0 8

/-- R79: SET_FLAGS leaves what the four single-flag writes leave, run in any order; GET_FLAGS answers the four
single reads packed; SET_FLAGS then GET_FLAGS returns the value. -/
def Obligations.PackedAndSingleFlagsAgree : Prop :=
  (∀ (s : State) (n z c v : Bool) (order : List Instr), s.resetDone = true →
    order.Perm [.setN n, .setZ z, .setC c, .setV v] →
    runAll order s =
      exec (.setFlags (BitVec.ofBool n ++ BitVec.ofBool z ++ BitVec.ofBool c ++ BitVec.ofBool v)) s) ∧
  (∀ s : State, s.resetDone = true →
    ∃ n z c v, Reads .getN s ((BitVec.ofBool n).setWidth 32) ∧ Reads .getZ s ((BitVec.ofBool z).setWidth 32) ∧
      Reads .getC s ((BitVec.ofBool c).setWidth 32) ∧ Reads .getV s ((BitVec.ofBool v).setWidth 32) ∧
      Reads .getFlags s
        ((BitVec.ofBool n ++ BitVec.ofBool z ++ BitVec.ofBool c ++ BitVec.ofBool v).setWidth 32)) ∧
  (∀ (s t : State) (f : BitVec 4), s.resetDone = true → exec (.setFlags f) s = .next t →
    Reads .getFlags t (f.setWidth 32))

/-- R84: a command raises ILLEGAL_COMMAND exactly when its op code is reserved, 0b10110 to 0b11111; the response
carries the op code and `PSR` is unchanged. -/
def Obligations.ReservedOpsRaiseIllegalCommand : Prop :=
  (∀ (op : BitVec 5) (wdata : BitVec 32),
    (0b10110 ≤ op.toNat ↔ decode (op ++ wdata) = .error (.reservedOp op)) ∧
    (op.toNat < 0b10110 ↔ ∃ i, decode (op ++ wdata) = .ok i)) ∧
  (∀ (s : State) (rest : List ClientStep) (op : BitVec 5) (wdata : BitVec 32), s.resetDone = true →
    0b10110 ≤ op.toNat →
    step (facing s (command .none op wdata) rest) =
      .next { s with
        schedule := rest
        rsp := { err := .illegalCommand, data := op.setWidth 32 }
        faultLog := s.faultLog ++ [.error (.illegalCommand op)] }) ∧
  (∀ (i : Instr) (s t : State), exec i s = .next t → t.rsp.err ≠ .illegalCommand)

/-- R85: SET_MODE raises ILLEGAL_OPERAND exactly when its code is not legal, under either policy, `PSR` unchanged. -/
def Obligations.IllegalModeCodesRaiseIllegalOperand : Prop :=
  ∀ (s : State) (wdata : BitVec 32), s.resetDone = true →
    (modeValid (wdata.extractLsb' 0 5) = false →
      runCommand 0b00111#5 wdata s =
        .next { s with
          rsp := { err := .illegalOperand, data := (wdata.extractLsb' 0 5).setWidth 32 }
          faultLog := s.faultLog ++ [.error (.illegalOperand (wdata.extractLsb' 0 5))] }) ∧
    (modeValid (wdata.extractLsb' 0 5) = true →
      ∃ t, runCommand 0b00111#5 wdata s = .next t ∧ t.rsp.err = .ok ∧ t.faultLog = s.faultLog)

/-- R83 and R61: a typed read of the mode taps in an illegal mode is the fault GET_MODE raises there, and no value;
in a legal mode it is the decoded mode, and the step records nothing. That the read is part of the client's step, and
leaves the response alone, is the model's choice (notes/assumptions/8.md). -/
def Obligations.TypedTapReadFaultsInIllegalMode : Prop :=
  ∀ (s : State) (rest : List ClientStep) (op : BitVec 5) (wdata : BitVec 32), s.resetDone = true →
    (modeDecode (s.readPsr.extractLsb' 0 5) = none →
      s.readModeTaps = .error (.error (.invalidMode (s.readPsr.extractLsb' 0 5))) ∧
      step (facing s { noCommand op wdata with tapRead := .typedMode } rest) =
        .next { s with
          schedule := rest
          rsp := { err := .ok, data := 0x00000000#32 }
          faultLog := s.faultLog ++ [.error (.invalidMode (s.readPsr.extractLsb' 0 5))] }) ∧
    (∀ m, modeDecode (s.readPsr.extractLsb' 0 5) = some m →
      s.readModeTaps = .ok m ∧
      step (facing s { noCommand op wdata with tapRead := .typedMode } rest) =
        .next { s with schedule := rest, rsp := { err := .ok, data := 0x00000000#32 } })

/-- R86: no other command fails. After reset every command but GET_MODE in an illegal mode and SET_MODE with an
illegal code answers next with response OK and records no fault; SET among them clears reserved bits and stores an
illegal mode pattern as given. -/
def Obligations.NoOtherCommandFails : Prop :=
  (∀ (i : Instr) (s : State), s.resetDone = true → (i = .getMode → s.LegalMode) → i.WellFormed →
    ∃ t, exec i s = .next t ∧ t.rsp.err = .ok ∧ t.faultLog = s.faultLog) ∧
  (∀ (s t : State) (v : BitVec 32), s.resetDone = true → exec (.set v) s = .next t →
    t.psr.extractLsb' 8 20 = 0#20 ∧ t.psr.extractLsb' 0 8 = v.extractLsb' 0 8)

/-- R34: a read command leaves `PSR` unchanged, and the same read command, with only read commands run between,
answers the same again. -/
def Obligations.ReadCommandsHaveNoSideEffect : Prop :=
  (∀ (i : Instr) (s : State), i ∈ readCommands → s.resetDone = true →
    ∃ t, exec i s = .next t ∧ t.psr = s.psr) ∧
  (∀ (i : Instr) (between : List Instr) (s t u : State), i ∈ readCommands → (∀ j ∈ between, j ∈ readCommands) →
    exec i s = .next t → runAll between t = .next u →
    ∃ v, exec i u = .next v ∧ v.rsp = t.rsp ∧ v.psr = s.psr)

/-- R35: the frame of the field write commands. Only the bits of the command's own field of `PSR` may change;
SET_MODE under `OrMerge` can only set bits. The rest of the state but the response and, for a raise, the fault log
is unchanged. -/
def Obligations.FieldWritesTouchOnlyTheirField : Prop :=
  ∀ (i : Instr) (s t : State) (lo width : Nat), writtenField i = some (lo, width) → exec i s = .next t →
    (∀ j, j < 32 → ¬(lo ≤ j ∧ j < lo + width) → t.readPsr.getLsbD j = s.readPsr.getLsbD j) ∧
    (∀ code j, i = .setMode code → s.policy = .orMerge → s.readPsr.getLsbD j = true → t.readPsr.getLsbD j = true) ∧
    t.resetDone = s.resetDone ∧ t.policy = s.policy ∧ t.schedule = s.schedule ∧
    (t.rsp.err = .ok → t.faultLog = s.faultLog)

/-- R41 to R43: the decoder gives back every instruction the encoder writes, with every operand at every value. -/
def Obligations.DecodeOfEncode : Prop :=
  ∀ i : Instr, decode (encode i) = .ok i

/-- R42, R43: a command that decodes is its instruction's encoding but for the bits its op code ignores. -/
def Obligations.EncodeOfDecode : Prop :=
  ∀ (op : BitVec 5) (wdata : BitVec 32) (i : Instr), decode (op ++ wdata) = .ok i →
    encode i = op ++ (wdata &&& usedBits op)

/-- R42: an ignored bit of `wdata` has no effect on state or response, whatever its value; the used bits are those
of R42's table. -/
def Obligations.IgnoredBitsHaveNoEffect : Prop :=
  (∀ (op : BitVec 5) (w w' : BitVec 32) (s : State),
    (op = 0b00011#5 → w = w') →
    (op = 0b00111#5 → w.extractLsb' 0 5 = w'.extractLsb' 0 5) →
    (op = 0b10101#5 → w.extractLsb' 0 4 = w'.extractLsb' 0 4) →
    (op ∈ [0b00101#5, 0b01001#5, 0b01011#5, 0b01101#5, 0b01111#5, 0b10001#5, 0b10011#5] →
      w.getLsbD 0 = w'.getLsbD 0) →
    runCommand op w s = runCommand op w' s) ∧
  (∀ (s : State) (rest : List ClientStep) (op op' : BitVec 5) (w w' : BitVec 32),
    step (facing s (noCommand op w) rest) = step (facing s (noCommand op' w') rest))

/-- R41: `cmd_op[0]` is 1 exactly for the commands of R43's write class. No command with an even op code changes
`PSR`, the reserved ones included (R44); one with an odd op code that succeeds answers data 0 (R46); and each odd op code
of the map does write: for some write data, in some state, `PSR` reads differently after it. -/
def Obligations.OpBitZeroMarksWriters : Prop :=
  (∀ (op : BitVec 5) (wdata : BitVec 32) (i : Instr), decode (op ++ wdata) = .ok i → op.getLsbD 0 = i.writes) ∧
  (∀ (op : BitVec 5) (wdata : BitVec 32) (s t : State), runCommand op wdata s = .next t →
    (op.getLsbD 0 = false → t.psr = s.psr) ∧
    (op.getLsbD 0 = true → t.rsp.err = .ok → t.rsp.data = 0x00000000#32)) ∧
  (∀ op : BitVec 5, op.getLsbD 0 = true → op.toNat < 0b10110 →
    ∃ (wdata : BitVec 32) (s t : State), runCommand op wdata s = .next t ∧ t.readPsr ≠ s.readPsr)

/-- R14: bits 27:8 of `PSR` are 0 at all times. Every step keeps it, from every state that has it; so it holds in
every state a run reaches from the launch state under either policy, whatever the client does; and a write that tries
to set the bits is discarded and not reported. -/
def Obligations.ReservedBitsStayZero : Prop :=
  (∀ s t : State, s.psr &&& 0x0FFFFF00#32 = 0#32 → step s = .next t → t.psr &&& 0x0FFFFF00#32 = 0#32) ∧
  (∀ (n : Nat) (policy : ModeWritePolicy) (client : List ClientStep) (t : State),
    core.run n { State.launch policy with schedule := client } = .next t → t.psr &&& 0x0FFFFF00#32 = 0#32) ∧
  (∀ (s : State) (v : BitVec 32), s.resetDone = true →
    ∃ t, exec (.set (v ||| 0x0FFFFF00#32)) s = .next t ∧ exec (.set v) s = .next t ∧
      t.rsp.err = .ok ∧ t.faultLog = s.faultLog ∧ t.psr &&& 0x0FFFFF00#32 = 0#32)

/-- The invariant of `ReservedBitsStayZero` holds at reset (R25). -/
def Obligations.ReservedBitsZeroAtReset : Prop := State.reset.ReservedZero

/-- R83, how an illegal mode can arise, under both policies: a step takes a legal mode to an illegal one only by a SET
with an illegal pattern; and under `Replace` a successful SET_MODE ends in a legal mode from every state. -/
def Obligations.IllegalModeComesOnlyFromSet : Prop :=
  (∀ s t : State, s.resetDone = true → s.LegalMode → step s = .next t → ¬ t.LegalMode →
    ∃ x rest, s.schedule = x :: rest ∧ x.cmdValid = true ∧ x.cmdOp = 0b00011#5 ∧
      modeValid (x.cmdWdata.extractLsb' 0 5) = false) ∧
  (∀ (s t : State) (code : BitVec 5), s.policy = .replace → exec (.setMode code) s = .next t →
    t.rsp.err = .ok → s.resetDone = true → t.LegalMode)

/-- R82: the fault log is never cleared. A step keeps every recorded fault in its place and adds at most two: the
command's, and that of the tap read the model makes part of the step (notes/assumptions/8.md, DESIGN CHOICE). -/
def Obligations.FaultLogOnlyGrows : Prop :=
  ∀ s t : State, step s = .next t → ∃ added, t.faultLog = s.faultLog ++ added ∧ added.length ≤ 2

/-- R82: a step whose response is an error leaves `PSR` and everything else of the block as it was, and the error is
recorded with the information of the response. That it is the last entry of the log, after the fault of a tap read in the
same step, is not R82's: it is the model's choice (notes/assumptions/8.md, DESIGN CHOICE). -/
def Obligations.RaiseLeavesTheBlockUnchanged : Prop :=
  ∀ s t : State, step s = .next t → t.rsp.err ≠ .ok →
    t.psr = s.psr ∧ t.resetDone = s.resetDone ∧ t.policy = s.policy ∧
    ∃ e, t.faultLog.getLast? = some (.error e) ∧
      (e = .invalidMode (t.rsp.data.extractLsb' 0 5) ∧ t.rsp.err = .invalidMode ∨
        e = .illegalCommand (t.rsp.data.extractLsb' 0 5) ∧ t.rsp.err = .illegalCommand ∨
        e = .illegalOperand (t.rsp.data.extractLsb' 0 5) ∧ t.rsp.err = .illegalOperand) ∧
      t.rsp.data.extractLsb' 5 27 = 0#27

/-- R87: a command raises at most one error, and each error belongs to its own op code. -/
def Obligations.EachErrorBelongsToOneOp : Prop :=
  ∀ (op : BitVec 5) (wdata : BitVec 32) (s t : State), runCommand op wdata s = .next t →
    t.faultLog = s.faultLog ∨
    (0b10110 ≤ op.toNat ∧ t.faultLog = s.faultLog ++ [.error (.illegalCommand op)]) ∨
    (op = 0b00111#5 ∧ t.faultLog = s.faultLog ++ [.error (.illegalOperand (wdata.extractLsb' 0 5))]) ∨
    (op = 0b00110#5 ∧ t.faultLog = s.faultLog ++ [.error (.invalidMode (s.readPsr.extractLsb' 0 5))])

/-- R45: the four response codes, and which error carries which. -/
def Obligations.ResponseCodesOfErrors : Prop :=
  rspErrCode .ok = 0b00#2 ∧
  (∀ e : CommandError, ∀ s : State, (s.raise e).rsp.err = errorCode e) ∧
  (∀ pattern, rspErrCode (errorCode (.invalidMode pattern)) = 0b01#2) ∧
  (∀ op, rspErrCode (errorCode (.illegalCommand op)) = 0b10#2) ∧
  (∀ code, rspErrCode (errorCode (.illegalOperand code)) = 0b11#2)

/-- A step runs the decoded command (R39): with the owner's command at the head of the schedule, the step is `exec` of
the decoded instruction, on the state past that entry with the taps read. Two things here are the model's choice: that
the client's command stands in a schedule (notes/assumptions/4.md, DESIGN CHOICE), and that the taps are read in the step,
their fault logged before the command's (notes/assumptions/8.md, DESIGN CHOICE). -/
def Obligations.StepRunsTheDecodedCommand : Prop :=
  ∀ (s : State) (x : ClientStep) (rest : List ClientStep) (i : Instr),
    s.schedule = x :: rest → x.client = .owner → x.cmdValid = true → decode (x.cmdOp ++ x.cmdWdata) = .ok i →
    step s = exec i ({ s with schedule := rest }.observeTaps x.tapRead) ∧
    (x.tapRead = .none → step s = exec i { s with schedule := rest })

/-- The host's hook: the next step after `withFetchWord` is `exec` of the instruction the decoder reads. All of it is the
model's choice and no rule's: that a command is loaded by putting it at the head of the schedule
(notes/assumptions/4.md, DESIGN CHOICE), and that the bits of a table word above bit 36 are dropped
(notes/assumptions/6.md, DESIGN CHOICE). The rules give only the command in bits 36 to 0 (R41) and its step (R39). -/
def Obligations.FetchWordRunsNext : Prop :=
  ∀ (s : State) (nbits w : Nat) (i : Instr), decodeTableWord nbits w = some i →
    step (s.withFetchWord nbits w) = exec i s

/-- R39: a step without a command leaves `PSR` unchanged and answers (OK, 0), before the first RESET too; past the
end of the schedule the client presents no command (notes/assumptions/4.md). -/
def Obligations.NoCommandLeavesPsr : Prop :=
  (∀ (s : State) (rest : List ClientStep) (op : BitVec 5) (wdata : BitVec 32),
    step (facing s (noCommand op wdata) rest) =
      .next { s with schedule := rest, rsp := { err := .ok, data := 0x00000000#32 } }) ∧
  (∀ s : State, s.schedule = [] → step s = .next { s with rsp := { err := .ok, data := 0x00000000#32 } })

/-- R95: in the time before the first RESET every command but RESET is refused, RESET is taken, and a tap read is a
fault and no value. Two clauses are the model's: a reserved op code is refused too and not answered ILLEGAL_COMMAND,
though R84 names no such exception (notes/assumptions/7.md, DEDUCED); and a step without a command in which the taps are
read goes on, with that fault recorded (notes/assumptions/8.md, DESIGN CHOICE). -/
def Obligations.BeforeResetOnlyResetRuns : Prop :=
  ∀ (s : State) (rest : List ClientStep) (op : BitVec 5) (wdata : BitVec 32), s.resetDone = false →
    (op ≠ 0b00001#5 → step (facing s (command .none op wdata) rest) = .refused .beforeReset) ∧
    (∃ t, step (facing s (command .none 0b00001#5 wdata) rest) = .next t ∧ t.resetDone = true ∧
      t.psr = 0x000000D3#32) ∧
    s.readTaps = .error .tapReadBeforeReset ∧ s.readModeTaps = .error .tapReadBeforeReset ∧
    (∀ r, r ≠ .none → ∃ t, step (facing s { noCommand op wdata with tapRead := r } rest) = .next t ∧
      t.faultLog = s.faultLog ++ [.tapReadBeforeReset])

/-- R95: the unspecified power-on word is never seen. In the time before the first RESET, two machines that differ
only in it take steps that differ in nothing but it, and in nothing at all once RESET has run. What a step does in that
time is read from the spec as notes/assumptions/7.md says (DEDUCED). -/
def Obligations.PowerOnWordIsUnobservable : Prop :=
  ∀ (s : State) (p q : BitVec 32), s.resetDone = false →
    mapNext forgetUnsetPsr (step { s with psr := p }) = mapNext forgetUnsetPsr (step { s with psr := q })

/-- R92: a second client of the same block is refused, whatever it does. That it acts through a marked entry of the
schedule is the model's (notes/assumptions/9.md, DEDUCED). -/
def Obligations.SecondClientHasNoStep : Prop :=
  ∀ (s : State) (x : ClientStep) (rest : List ClientStep), s.schedule = x :: rest → x.client = .second →
    step s = .refused .secondClient

/-- R47: each tap's value is the data its matching read command answers in the same step; `m_q` and GET_MODE when
the mode is legal. R48 and R61, for the mode taps that no read command matches: bit k of `mode_onehot_q` is 1 exactly
when `PSR[4:0]` is the k-th legal code, and all bits are 0 for an illegal pattern; `mode_valid_q` is 1 exactly for a legal
code; `m_q` is the raw pattern. -/
def Obligations.TapsEqualTheirReadCommands : Prop :=
  ∀ s : State, s.resetDone = true → ∃ taps, s.readTaps = .ok taps ∧
    Reads .get s taps.psrQ ∧
    Reads .getState s ((BitVec.ofBool taps.tQ).setWidth 32) ∧
    Reads .getIrqDis s ((BitVec.ofBool taps.iQ).setWidth 32) ∧
    Reads .getFiqDis s ((BitVec.ofBool taps.fQ).setWidth 32) ∧
    Reads .getN s ((BitVec.ofBool taps.nQ).setWidth 32) ∧
    Reads .getZ s ((BitVec.ofBool taps.zQ).setWidth 32) ∧
    Reads .getC s ((BitVec.ofBool taps.cQ).setWidth 32) ∧
    Reads .getV s ((BitVec.ofBool taps.vQ).setWidth 32) ∧
    Reads .getFlags s (taps.flagsQ.setWidth 32) ∧
    (taps.modeValidQ = true → Reads .getMode s (taps.mQ.setWidth 32)) ∧
    (taps.modeValidQ = false → Raises .getMode s .invalidMode (taps.mQ.setWidth 32) (.invalidMode taps.mQ)) ∧
    taps.mQ = s.readPsr.extractLsb' 0 5 ∧
    (taps.modeValidQ = true ↔ s.readPsr.extractLsb' 0 5 ∈ legalCodes.map Prod.fst) ∧
    (∀ k : Fin 7, taps.modeOneHotQ.getLsbD k = true ↔
      (legalCodes.map Prod.fst)[k.val]? = some (s.readPsr.extractLsb' 0 5)) ∧
    (s.readPsr.extractLsb' 0 5 ∉ legalCodes.map Prod.fst → taps.modeOneHotQ = 0b0000000#7 ∧ taps.modeValidQ = false)

/-- R97: a client that reads the taps in the step of a command, one that writes among them, sees the old value. Whatever
the command, a raw read changes nothing of the step; a typed read is a fault exactly when the mode from before the step is
illegal, with the old pattern, whatever the command then leaves, which is said for each command that writes the mode field:
RESET, SET and SET_MODE. That the tap read is part of the step and its fault precedes the command's in the log is the
model's choice (notes/assumptions/8.md, DESIGN CHOICE). -/
def Obligations.TapsShowTheOldValueInTheWriteStep : Prop :=
  ∀ (s : State) (rest : List ClientStep) (op : BitVec 5) (wdata : BitVec 32), s.resetDone = true →
    ∃ (t : State) (added : List Fault),
      step (facing s (command .none op wdata) rest) = .next t ∧ t.faultLog = s.faultLog ++ added ∧
      step (facing s (command .raw op wdata) rest) = .next t ∧
      (s.LegalMode → step (facing s (command .typedMode op wdata) rest) = .next t) ∧
      (¬ s.LegalMode → step (facing s (command .typedMode op wdata) rest) =
        .next { t with
          faultLog := s.faultLog ++ .error (.invalidMode (s.readPsr.extractLsb' 0 5)) :: added }) ∧
      (op = 0b00001#5 → t.psr = 0x000000D3#32 ∧ added = []) ∧
      (op = 0b00011#5 → t.psr = wdata &&& 0xF00000FF#32 ∧ added = []) ∧
      (op = 0b00111#5 → modeValid (wdata.extractLsb' 0 5) = true →
        added = [] ∧
        (s.policy = .replace →
          t.psr = (s.readPsr &&& 0xFFFFFFE0#32) ||| (wdata.extractLsb' 0 5).setWidth 32) ∧
        (s.policy = .orMerge → t.psr = s.readPsr ||| (wdata.extractLsb' 0 5).setWidth 32))

/-- R28: no response latch and no sticky error bit. What an earlier step answered plays no part in a step, and what
faults are recorded plays none in what a step does to anything but the log. -/
def Obligations.ResponseAndLogAreNotState : Prop :=
  (∀ (s : State) (r : Response), step { s with rsp := r } = step s) ∧
  (∀ (s : State) (log : List Fault),
    mapNext (fun t => { t with faultLog := [] }) (step { s with faultLog := log }) =
      mapNext (fun t => { t with faultLog := [] }) (step s))

/-- R88: a word obtained by GET restores exactly. Whatever commands run between, SET of the saved word gives back the
`PSR` that GET read. -/
def Obligations.SavedWordRestoresExactly : Prop :=
  ∀ (s t u : State) (between : List Instr), exec .get s = .next t → runAll between t = .next u →
    ∃ v, exec (.set t.rsp.data) u = .next v ∧ v.readPsr = s.readPsr

/-- R99: under `OrMerge`, SET_MODE m gives mode m exactly where the old field's set bits are a subset of m's; clearing
bits 4:0 first gives m under either policy, through the illegal pattern 0 for one step; under `Replace`, SET_MODE m
alone always leaves m. -/
def Obligations.ClearingTheFieldMakesSetModeSafe : Prop :=
  ∀ (s : State) (m : BitVec 5), s.resetDone = true → modeValid m = true →
    (s.policy = .orMerge → ∃ t, exec (.setMode m) s = .next t ∧
      (t.readPsr.extractLsb' 0 5 = m ↔ s.readPsr.extractLsb' 0 5 &&& ~~~m = 0#5)) ∧
    (∃ t u v, exec .get s = .next t ∧ exec (.set (t.rsp.data &&& 0xFFFFFFE0#32)) t = .next u ∧
      u.readPsr.extractLsb' 0 5 = 0b00000#5 ∧ ¬ u.LegalMode ∧
      exec (.setMode m) u = .next v ∧ Reads .getMode v (m.setWidth 32)) ∧
    (s.policy = .replace → ∃ t, exec (.setMode m) s = .next t ∧ t.readPsr.extractLsb' 0 5 = m)

/-- R98: after SET, GET_MODE succeeds exactly when bits 4:0 of the word are a legal code, and a word read by GET in a
legal mode is such a word. -/
def Obligations.SetWordDecidesTheModeRead : Prop :=
  (∀ (s t : State) (w : BitVec 32), s.resetDone = true → exec (.set w) s = .next t →
    (LegalModeWord w → Reads .getMode t ((w.extractLsb' 0 5).setWidth 32)) ∧
    (¬ LegalModeWord w →
      Raises .getMode t .invalidMode ((w.extractLsb' 0 5).setWidth 32) (.invalidMode (w.extractLsb' 0 5)))) ∧
  (∀ s t : State, s.LegalMode → exec .get s = .next t → LegalModeWord t.rsp.data)

/-- R102, R39: every command completes in the one step in which it is presented. After reset, a schedule of the one
client runs to its end in as many steps as it has entries, whatever its commands and tap reads are. The schedule, and
that a tap read which is a fault does not end the run, are the model's choice (notes/assumptions/4.md and 8.md, DESIGN
CHOICE). -/
def Obligations.EveryScheduleRunsToItsEnd : Prop :=
  ∀ s : State, s.resetDone = true → (∀ x ∈ s.schedule, x.client = .owner) →
    ∃ t, core.run s.schedule.length s = .next t ∧ t.schedule = [] ∧ t.resetDone = true ∧ t.policy = s.policy

/-- R36: commands take effect in the order the client issues them, one per step. Running a schedule of encoded
commands step by step is running their meanings one after another. The schedule is the model's choice (notes/assumptions/4.md,
DESIGN CHOICE). -/
def Obligations.ScheduleRunsInOrder : Prop :=
  ∀ (s : State) (program : List Instr), s.schedule = [] →
    core.run program.length { s with schedule := program.map (fun i => presentCommand (encode i)) } =
      runAll program s

/-- R29: no privilege check and no cross-field check. For every command but RESET, SET and the two mode accessors
(which read or write the mode field itself), running it and then putting another mode in the field is the same as
running it in that mode; GET, which answers the field too, is left out. -/
def Obligations.ModeDoesNotGateOtherFields : Prop :=
  ∀ (i : Instr) (s : State) (code : BitVec 5), i ≠ .reset → (∀ v, i ≠ .set v) → i ≠ .get → i ≠ .getMode →
    (∀ c, i ≠ .setMode c) →
    exec i { s with psr := withModeField s.psr code } =
      mapNext (fun t => { t with psr := withModeField t.psr code }) (exec i s)

/-- The policy is fixed for the machine, the reset-done premise is never lost, a step takes exactly one entry of the
schedule, and no step ends in the interface's fault outcome: a fault is recorded (R82, notes/assumptions/1.md). -/
def Obligations.StepFrameOfTheEnvironment : Prop :=
  (∀ s t : State, step s = .next t →
    t.policy = s.policy ∧ t.schedule = s.schedule.tail ∧ (s.resetDone = true → t.resetDone = true)) ∧
  (∀ (s : State) (f : Fault), step s ≠ .fault f)

/-- R80, R81: the five fields of the diagnostic view, an illegal pattern shown raw. -/
def Obligations.DiagnosticViewFields : Prop :=
  ∀ w : BitVec 32,
    (∀ m, modeDecode (w.extractLsb' 0 5) = some m → (diagnosticView w).mode = .known m) ∧
    (modeDecode (w.extractLsb' 0 5) = none → (diagnosticView w).mode = .invalid (w.extractLsb' 0 5)) ∧
    ((diagnosticView w).state = .thumb ↔ w.getLsbD 5 = true) ∧
    ((diagnosticView w).irq = .disabled ↔ w.getLsbD 7 = true) ∧
    ((diagnosticView w).fiq = .disabled ↔ w.getLsbD 6 = true) ∧
    (diagnosticView w).conditionFlags =
      { n := w.getLsbD 31, z := w.getLsbD 30, c := w.getLsbD 29, v := w.getLsbD 28 }

/-- Words written out from R41 and R43 (the encodings of spec/95_test_vectors.md P1 to P3) decode to their commands. -/
def Obligations.WordsDecodeAsTheTableSays : Prop :=
  decode 0x100000000#37 = .ok .reset ∧
  decode 0x70000001F#37 = .ok (.setMode 0b11111#5) ∧
  decode 0x900000000#37 = .ok (.setIrqDis false) ∧
  decode 0x1500000004#37 = .ok (.setFlags 0b0100#4) ∧
  decode 0x34000001F#37 = .ok (.set 0x4000001F#32) ∧
  decode 0x500000001#37 = .ok (.setState .thumb) ∧
  decode 0x18FFFFFFFF#37 = .error (.reservedOp 0b11000#5)
end

