-- ==== Sys2Proof/Laws/Psr.lean ====
section
/-! SUPPORT. What each bit-field operation does, bit by bit: the lemmas every statement about `PSR` rests on. -/

namespace Sys2Proof.Machine

/-- The 12 stored bits of `keepMask` (R15). -/
theorem getLsbD_keepMask (j : Nat) : keepMask.getLsbD j = decide (j < 8 ∨ (28 ≤ j ∧ j < 32)) := by
  by_cases h : j < 32
  · interval_cases j <;> rfl
  · rw [BitVec.getLsbD_of_ge _ _ (by omega)]
    have : ¬(j < 8 ∨ (28 ≤ j ∧ j < 32)) := by omega
    simp [this]

theorem getLsbD_wired (w : Word) (j : Nat) :
    (wired w).getLsbD j = (w.getLsbD j && decide (j < 8 ∨ (28 ≤ j ∧ j < 32))) := by
  rw [wired, BitVec.getLsbD_and, getLsbD_keepMask]

@[simp] theorem wired_wired (w : Word) : wired (wired w) = wired w := by
  rw [wired, wired, BitVec.and_assoc, BitVec.and_self]

/-- A wired word has its reserved bits clear (R14). -/
@[simp] theorem wired_and_reserved (w : Word) : wired w &&& 0x0FFFFF00#32 = 0#32 := by
  rw [wired, BitVec.and_assoc]
  exact BitVec.and_zero

/-- A word with its reserved bits clear is what it reads as (R14, R15). -/
theorem wired_of_reservedZero (w : Word) (h : w &&& 0x0FFFFF00#32 = 0#32) : wired w = w := by
  have : w = (w &&& 0x0FFFFF00#32) ||| (w &&& keepMask) := by
    rw [← BitVec.and_or_distrib_left]
    exact (BitVec.and_allOnes (x := w)).symm
  rw [h, BitVec.zero_or] at this
  exact this.symm

/-- A single-bit write changes its bit and no other (R35). -/
theorem getLsbD_insertBit (k : Nat) (b : Bool) (w : Word) (j : Nat) (hk : k < 32) :
    (insertBit k b w).getLsbD j = if j = k then b else w.getLsbD j := by
  by_cases hj : j < 32
  · by_cases e : j = k
    · subst e; simp [insertBit, zextBit, hj]
    · by_cases l : j < k
      · simp [insertBit, zextBit, hj, e, l]
      · have zero : ¬ j - k = 0 := by omega
        simp [insertBit, zextBit, hj, e, l, zero]
  · have : j ≠ k := by omega
    rw [if_neg this, BitVec.getLsbD_of_ge _ _ (by omega), BitVec.getLsbD_of_ge _ _ (by omega)]

/-- Writing the bit a word holds changes nothing. -/
theorem insertBit_self (k : Nat) (w : Word) (hk : k < 32) : insertBit k (w.getLsbD k) w = w := by
  apply BitVec.eq_of_getLsbD_eq
  intro j _
  rw [getLsbD_insertBit _ _ _ _ hk]
  split <;> simp_all

/-- Of two writes of one bit the last counts. -/
theorem insertBit_insertBit (k : Nat) (b c : Bool) (w : Word) (hk : k < 32) :
    insertBit k b (insertBit k c w) = insertBit k b w := by
  apply BitVec.eq_of_getLsbD_eq
  intro j _
  simp only [getLsbD_insertBit _ _ _ _ hk]
  split <;> rfl

/-- The packer writes bits 31:28 and no other (R78). -/
theorem getLsbD_packFlags (f : Nzcv) (w : Word) (j : Nat) :
    (packFlags f w).getLsbD j = if 28 ≤ j ∧ j < 32 then f.getLsbD (j - 28) else w.getLsbD j := by
  by_cases hj : j < 32
  · interval_cases j <;> simp [packFlags]
  · rw [if_neg (by omega), BitVec.getLsbD_of_ge _ _ (by omega), BitVec.getLsbD_of_ge _ _ (by omega)]

/-- `Replace` writes bits 4:0 and no other (R63). -/
theorem getLsbD_writeModeField_replace (c : ModeCode) (w : Word) (j : Nat) :
    (writeModeField .replace c w).getLsbD j = if j < 5 then c.getLsbD j else w.getLsbD j := by
  by_cases hj : j < 32
  · interval_cases j <;> simp [writeModeField]
  · rw [if_neg (by omega), BitVec.getLsbD_of_ge _ _ (by omega), BitVec.getLsbD_of_ge _ _ (by omega)]

/-- `OrMerge` sets the code's bits and clears none (R63). -/
theorem getLsbD_writeModeField_orMerge (c : ModeCode) (w : Word) (j : Nat) :
    (writeModeField .orMerge c w).getLsbD j = (w.getLsbD j || c.getLsbD j) := by
  by_cases hj : j < 32
  · simp [writeModeField, hj]
  · rw [BitVec.getLsbD_of_ge _ _ (by omega), BitVec.getLsbD_of_ge _ _ (by omega),
      BitVec.getLsbD_of_ge _ _ (by omega)]
    rfl

/-- A word with no bit in 27:8 is what it reads as (R15). -/
theorem wired_eq_self (w : Word) (h : ∀ j, 8 ≤ j → j < 28 → w.getLsbD j = false) : wired w = w := by
  apply BitVec.eq_of_getLsbD_eq
  intro j hj
  rw [getLsbD_wired]
  by_cases hs : j < 8 ∨ (28 ≤ j ∧ j < 32)
  · simp [hs]
  · rw [h j (by omega) (by omega)]
    rfl

/-- A write of a stored bit of a wired word needs no wiring again. -/
theorem wired_insertBit (k : Nat) (b : Bool) (w : Word) (hk : k < 8 ∨ (28 ≤ k ∧ k < 32)) :
    wired (insertBit k b (wired w)) = insertBit k b (wired w) := by
  apply wired_eq_self
  intro j h8 h28
  rw [getLsbD_insertBit _ _ _ _ (by omega), if_neg (by omega), getLsbD_wired]
  simp
  omega

/-- The packer's result on a wired word needs no wiring again. -/
theorem wired_packFlags (f : Nzcv) (w : Word) : wired (packFlags f (wired w)) = packFlags f (wired w) := by
  apply wired_eq_self
  intro j h8 h28
  rw [getLsbD_packFlags, if_neg (by omega), getLsbD_wired]
  simp
  omega

/-- SET_MODE's result on a wired word needs no wiring again, under either policy. -/
theorem wired_writeModeField (p : ModeWritePolicy) (c : ModeCode) (w : Word) :
    wired (writeModeField p c (wired w)) = writeModeField p c (wired w) := by
  apply wired_eq_self
  intro j h8 h28
  have read : (wired w).getLsbD j = false := by rw [getLsbD_wired]; simp; omega
  cases p with
  | replace => rw [getLsbD_writeModeField_replace, if_neg (by omega), read]
  | orMerge =>
    rw [getLsbD_writeModeField_orMerge, read, BitVec.getLsbD_of_ge _ _ (by omega)]
    rfl

/-- The mode field after SET_MODE under `Replace` is the code (R63). -/
theorem modeField_writeModeField_replace (c : ModeCode) (w : Word) :
    modeField (writeModeField .replace c w) = c := by
  apply BitVec.eq_of_getLsbD_eq
  intro j hj
  rw [modeField, BitVec.getLsbD_extractLsb', Nat.zero_add, getLsbD_writeModeField_replace, if_pos hj]
  simp [hj]

/-- The mode field after SET_MODE under `OrMerge` is the old field with the code's bits set (R64). -/
theorem modeField_writeModeField_orMerge (c : ModeCode) (w : Word) :
    modeField (writeModeField .orMerge c w) = modeField w ||| c := by
  apply BitVec.eq_of_getLsbD_eq
  intro j hj
  rw [modeField, BitVec.getLsbD_extractLsb', Nat.zero_add, getLsbD_writeModeField_orMerge]
  simp [hj, modeField]

/-- The mode field holds no reserved bit. -/
@[simp] theorem modeField_wired (w : Word) : modeField (wired w) = modeField w := by
  apply BitVec.eq_of_getLsbD_eq
  intro j hj
  simp only [modeField, BitVec.getLsbD_extractLsb', Nat.zero_add, getLsbD_wired]
  have : j < 8 := by omega
  simp [this]

/-- A write of a bit above the mode field leaves the mode field. -/
theorem modeField_insertBit (k : Nat) (b : Bool) (w : Word) (h5 : 5 ≤ k) (hk : k < 32) :
    modeField (insertBit k b w) = modeField w := by
  apply BitVec.eq_of_getLsbD_eq
  intro j hj
  simp only [modeField, BitVec.getLsbD_extractLsb', Nat.zero_add, getLsbD_insertBit _ _ _ _ hk]
  rw [if_neg (by omega)]

/-- The packer leaves the mode field. -/
theorem modeField_packFlags (f : Nzcv) (w : Word) : modeField (packFlags f w) = modeField w := by
  apply BitVec.eq_of_getLsbD_eq
  intro j hj
  simp only [modeField, BitVec.getLsbD_extractLsb', Nat.zero_add, getLsbD_packFlags]
  rw [if_neg (by omega)]

/-- The packer then the extractor (R79). -/
theorem extractFlags_packFlags (f : Nzcv) (w : Word) : extractFlags (packFlags f w) = f := by
  apply BitVec.eq_of_getLsbD_eq
  intro j hj
  simp only [extractFlags, BitVec.getLsbD_extractLsb', getLsbD_packFlags]
  rw [if_pos (by omega)]
  simp [hj]

/-- The decoder and the code table are inverse (R16, R60). -/
theorem modeDecode_modeCode (m : Mode) : modeDecode (modeCode m) = some m := by
  cases m <;> rfl

theorem modeDecode_eq_some (c : ModeCode) (m : Mode) (h : modeDecode c = some m) : c = modeCode m := by
  revert c m
  decide

theorem modeValid_iff (c : ModeCode) : modeValid c = true ↔ ∃ m, modeDecode c = some m :=
  Option.isSome_iff_exists

theorem modeValid_eq_false_iff (c : ModeCode) : modeValid c = false ↔ modeDecode c = none := by
  simp [modeValid]

/-- The legal codes are closed under OR (R64). -/
theorem modeValid_or (p c : ModeCode) (hp : modeValid p = true) (hc : modeValid c = true) :
    modeValid (p ||| c) = true := by
  revert p c
  decide

end Sys2Proof.Machine
end

