-- ==== Sys2Proof/Laws/Decode.lean ====
section
/-! SUPPORT. The parts of a 37-bit command, and when the decoder accepts. -/

namespace Sys2Proof

@[simp] theorem cmdOp_cmdWord (op : OpCode) (w : Word) : cmdOp (cmdWord op w) = op := by
  simp only [cmdOp, cmdWord]
  exact BitVec.extractLsb'_append_eq_left

@[simp] theorem cmdWdata_cmdWord (op : OpCode) (w : Word) : cmdWdata (cmdWord op w) = w := by
  simp only [cmdWdata, cmdWord]
  exact BitVec.extractLsb'_append_eq_right

@[simp] theorem cmdWord_parts (c : CmdWord) : cmdWord (cmdOp c) (cmdWdata c) = c := by
  apply BitVec.eq_of_getLsbD_eq
  intro j hj
  simp only [cmdWord, cmdOp, cmdWdata, BitVec.getLsbD_append, BitVec.getLsbD_extractLsb']
  by_cases h : j < 32
  · simp [h]
  · have : j - 32 < 5 := by omega
    have : 32 + (j - 32) = j := by omega
    simp [*]

/-- The decoder on a command given by its parts. -/
theorem decode_cmdWord (op : OpCode) (w : Word) : decode (cmdWord op w) = decodeCommand op w := by
  rw [decode, cmdOp_cmdWord, cmdWdata_cmdWord]

theorem decode_append (op : OpCode) (w : Word) : decode (op ++ w) = decodeCommand op w := decode_cmdWord op w

/-- The operand forms read back what the encoder places (R42). -/
@[simp] theorem boolOperand_zextBit (b : Bool) : Machine.boolOperand (Machine.zextBit b) = b := by
  cases b <;> rfl

@[simp] theorem stateOperand_zextBit (x : ExecState) :
    Machine.stateOperand (Machine.zextBit (Machine.boolOfState x)) = x := by
  cases x <;> rfl

@[simp] theorem modeOperand_setWidth (c : ModeCode) : Machine.modeOperand (c.setWidth 32) = c := by
  apply BitVec.eq_of_getLsbD_eq
  intro j hj
  have : j < 32 := by omega
  simp [Machine.modeOperand, hj, this]

@[simp] theorem flagsOperand_setWidth (f : Nzcv) : Machine.flagsOperand (f.setWidth 32) = f := by
  apply BitVec.eq_of_getLsbD_eq
  intro j hj
  have : j < 32 := by omega
  simp [Machine.flagsOperand, hj, this]

/-- The decoder rejects nothing but a reserved op code, and names it (R44). -/
theorem decodeCommand_error (op : OpCode) (w : Word) (e : DecodeError) (h : decodeCommand op w = .error e) :
    e = .reservedOp op ∧ 22 ≤ op.toNat := by
  obtain ⟨n, hn⟩ : ∃ n, n = op.toNat := ⟨_, rfl⟩
  by_cases small : n < 22
  · simp only [decodeCommand, ← hn] at h
    interval_cases n <;> cases h
  · refine ⟨?_, by omega⟩
    have : n < 32 := hn ▸ op.isLt
    simp only [decodeCommand, ← hn] at h
    interval_cases n <;> cases h <;> rfl

/-- The decoder accepts every op code of the map, with that op code's instruction (R43). -/
theorem decodeCommand_ok (op : OpCode) (w : Word) (i : Instr) (h : decodeCommand op w = .ok i) :
    opCode i = op ∧ op.toNat < 22 := by
  have key : ∀ n, op.toNat = n → n < 32 → op = BitVec.ofNat 5 n := fun n hn _ => by
    apply BitVec.eq_of_toNat_eq
    simp [hn]
    omega
  unfold decodeCommand at h
  split at h <;> first | (cases h; done) | skip
  all_goals
    cases h
    rename_i e
    exact ⟨(key _ e (by decide)).symm, by omega⟩

end Sys2Proof
end

