-- ==== Sys2Proof/Laws/State.lean ====
section
/-! SUPPORT. One lemma per field per update of State, so that no proof unfolds a record update. -/

namespace Sys2Proof.Machine

variable (s : State) (w : Word) (e : RspErr) (f : Fault) (c : CommandError) (r : TapRead)

@[simp] theorem writePsr_psr : (s.writePsr w).psr = wired w := rfl
@[simp] theorem writePsr_resetDone : (s.writePsr w).resetDone = s.resetDone := rfl
@[simp] theorem writePsr_rsp : (s.writePsr w).rsp = s.rsp := rfl
@[simp] theorem writePsr_faultLog : (s.writePsr w).faultLog = s.faultLog := rfl
@[simp] theorem writePsr_policy : (s.writePsr w).policy = s.policy := rfl
@[simp] theorem writePsr_schedule : (s.writePsr w).schedule = s.schedule := rfl

@[simp] theorem respond_psr : (s.respond e w).psr = s.psr := rfl
@[simp] theorem respond_resetDone : (s.respond e w).resetDone = s.resetDone := rfl
@[simp] theorem respond_rsp : (s.respond e w).rsp = { err := e, data := w } := rfl
@[simp] theorem respond_faultLog : (s.respond e w).faultLog = s.faultLog := rfl
@[simp] theorem respond_policy : (s.respond e w).policy = s.policy := rfl
@[simp] theorem respond_schedule : (s.respond e w).schedule = s.schedule := rfl

@[simp] theorem logFault_psr : (s.logFault f).psr = s.psr := rfl
@[simp] theorem logFault_resetDone : (s.logFault f).resetDone = s.resetDone := rfl
@[simp] theorem logFault_rsp : (s.logFault f).rsp = s.rsp := rfl
@[simp] theorem logFault_faultLog : (s.logFault f).faultLog = s.faultLog ++ [f] := rfl
@[simp] theorem logFault_policy : (s.logFault f).policy = s.policy := rfl
@[simp] theorem logFault_schedule : (s.logFault f).schedule = s.schedule := rfl

@[simp] theorem raise_psr : (s.raise c).psr = s.psr := rfl
@[simp] theorem raise_resetDone : (s.raise c).resetDone = s.resetDone := rfl
@[simp] theorem raise_rsp : (s.raise c).rsp = { err := errorCode c, data := errorInfo c } := rfl
@[simp] theorem raise_faultLog : (s.raise c).faultLog = s.faultLog ++ [.error c] := rfl
@[simp] theorem raise_policy : (s.raise c).policy = s.policy := rfl
@[simp] theorem raise_schedule : (s.raise c).schedule = s.schedule := rfl

@[simp] theorem idle_psr : s.idle.psr = s.psr := rfl
@[simp] theorem idle_resetDone : s.idle.resetDone = s.resetDone := rfl
@[simp] theorem idle_rsp : s.idle.rsp = { err := .ok, data := 0x00000000#32 } := rfl
@[simp] theorem idle_faultLog : s.idle.faultLog = s.faultLog := rfl
@[simp] theorem idle_policy : s.idle.policy = s.policy := rfl
@[simp] theorem idle_schedule : s.idle.schedule = s.schedule := rfl

@[simp] theorem observeTaps_none : s.observeTaps .none = s := rfl

@[simp] theorem observeTaps_psr : (s.observeTaps r).psr = s.psr := by
  cases r <;> simp only [State.observeTaps] <;> repeat' split
  all_goals rfl

@[simp] theorem observeTaps_resetDone : (s.observeTaps r).resetDone = s.resetDone := by
  cases r <;> simp only [State.observeTaps] <;> repeat' split
  all_goals rfl

@[simp] theorem observeTaps_rsp : (s.observeTaps r).rsp = s.rsp := by
  cases r <;> simp only [State.observeTaps] <;> repeat' split
  all_goals rfl

@[simp] theorem observeTaps_policy : (s.observeTaps r).policy = s.policy := by
  cases r <;> simp only [State.observeTaps] <;> repeat' split
  all_goals rfl

@[simp] theorem observeTaps_schedule : (s.observeTaps r).schedule = s.schedule := by
  cases r <;> simp only [State.observeTaps] <;> repeat' split
  all_goals rfl

/-- Reading the taps records at most one fault and does nothing else. -/
theorem observeTaps_eq : ∃ added, added.length ≤ 1 ∧
    s.observeTaps r = { s with faultLog := s.faultLog ++ added } := by
  have quiet : ∃ added : List Fault, added.length ≤ 1 ∧ s = { s with faultLog := s.faultLog ++ added } :=
    ⟨[], by simp, by simp⟩
  have one (f : Fault) : ∃ added, added.length ≤ 1 ∧ s.logFault f = { s with faultLog := s.faultLog ++ added } :=
    ⟨[f], Nat.le_refl 1, rfl⟩
  cases r with
  | none => exact quiet
  | raw =>
    simp only [State.observeTaps]
    split
    · exact quiet
    · exact one _
  | typedMode =>
    simp only [State.observeTaps]
    split
    · split
      · exact quiet
      · exact one _
    · exact one _

/-- Any read of the taps before the first RESET is a fault (R95). -/
theorem observeTaps_beforeReset (h : s.resetDone = false) (hr : r ≠ .none) :
    s.observeTaps r = s.logFault .tapReadBeforeReset := by
  cases r with
  | none => exact absurd rfl hr
  | raw => simp [State.observeTaps, h]
  | typedMode => simp [State.observeTaps, h]

/-- A raw read of the taps after reset has no effect (R47). -/
theorem observeTaps_raw (h : s.resetDone = true) : s.observeTaps .raw = s := by
  simp [State.observeTaps, h]

/-- A typed read of the mode taps in a legal mode has no effect (R61). -/
theorem observeTaps_typed_legal (m : Mode) (h : s.resetDone = true)
    (hm : modeDecode (modeField s.readPsr) = some m) : s.observeTaps .typedMode = s := by
  simp [State.observeTaps, h, hm]

/-- A typed read of the mode taps in an illegal mode is INVALID_MODE's fault (R61, R83). -/
theorem observeTaps_typed_illegal (h : s.resetDone = true) (hm : modeDecode (modeField s.readPsr) = none) :
    s.observeTaps .typedMode = s.logFault (.error (.invalidMode (modeField s.readPsr))) := by
  simp [State.observeTaps, h, hm]

theorem readPsr_eq_wired : s.readPsr = wired s.psr := rfl

end Sys2Proof.Machine
end

