-- ==== Sys2Proof/Laws/Ops.lean ====
section
/-! SUPPORT. One lemma per shared operation that says everything it can do; later proofs cite these and do not
unfold the operations. -/

namespace Sys2Proof.Machine

@[simp] theorem readPsr_writePsr (s : State) (w : Word) : (s.writePsr w).readPsr = wired w := wired_wired w
@[simp] theorem readPsr_respond (s : State) (e : RspErr) (w : Word) : (s.respond e w).readPsr = s.readPsr := rfl
@[simp] theorem readPsr_raise (s : State) (e : CommandError) : (s.raise e).readPsr = s.readPsr := rfl
@[simp] theorem readPsr_idle (s : State) : s.idle.readPsr = s.readPsr := rfl
@[simp] theorem readPsr_observeTaps (s : State) (r : TapRead) : (s.observeTaps r).readPsr = s.readPsr := by
  rw [readPsr_eq_wired, observeTaps_psr, readPsr_eq_wired]

/-- What `PSR` reads as is already wired (R15). -/
@[simp] theorem wired_readPsr (s : State) : wired s.readPsr = s.readPsr := wired_wired s.psr

/-- A status word kept as the block keeps it is what it reads as (R14, R15). -/
theorem readPsr_eq_psr (s : State) (h : s.psr &&& 0x0FFFFF00#32 = 0#32) : s.readPsr = s.psr :=
  wired_of_reservedZero s.psr h

theorem afterReset_next (s : State) (r : Result) (h : s.resetDone = true) : afterReset s r = r := if_pos h

theorem afterReset_refused (s : State) (r : Result) (h : s.resetDone = false) :
    afterReset s r = .refused .beforeReset := if_neg (by simp [h])

/-- The gate answers next only after reset, and then what the command answers. -/
theorem afterReset_inv (s t : State) (r : Result) (h : afterReset s r = .next t) :
    s.resetDone = true ∧ r = .next t := by
  unfold afterReset at h
  split at h
  · exact ⟨‹_›, h⟩
  · cases h

theorem readCommand_next (d : Word → Word) (s : State) (h : s.resetDone = true) :
    readCommand d s = .next (s.respond .ok (d s.readPsr)) := afterReset_next _ _ h

theorem readCommand_inv (d : Word → Word) (s t : State) (h : readCommand d s = .next t) :
    s.resetDone = true ∧ t = s.respond .ok (d s.readPsr) := by
  obtain ⟨done, e⟩ := afterReset_inv _ _ _ h
  cases e
  exact ⟨done, rfl⟩

theorem writeCommand_next (u : Word → Word) (s : State) (h : s.resetDone = true) :
    writeCommand u s = .next ((s.writePsr (u s.readPsr)).respond .ok 0x00000000#32) := afterReset_next _ _ h

theorem writeCommand_inv (u : Word → Word) (s t : State) (h : writeCommand u s = .next t) :
    s.resetDone = true ∧ t = (s.writePsr (u s.readPsr)).respond .ok 0x00000000#32 := by
  obtain ⟨done, e⟩ := afterReset_inv _ _ _ h
  cases e
  exact ⟨done, rfl⟩

theorem raiseCommand_next (e : CommandError) (s : State) (h : s.resetDone = true) :
    raiseCommand e s = .next (s.raise e) := afterReset_next _ _ h

theorem raiseCommand_inv (e : CommandError) (s t : State) (h : raiseCommand e s = .next t) :
    s.resetDone = true ∧ t = s.raise e := by
  obtain ⟨done, h⟩ := afterReset_inv _ _ _ h
  cases h
  exact ⟨done, rfl⟩

/-- In this state a command answers next, appends to the fault log what it would append to any log, and does nothing
else that depends on the log. -/
abbrev AppendsToLog (run : State → Result) (s : State) : Prop :=
  ∃ (t : State) (added : List Fault), t.faultLog = s.faultLog ++ added ∧
    ∀ log : List Fault, run { s with faultLog := log } = .next { t with faultLog := log ++ added }

theorem readCommand_appendsToLog (d : Word → Word) (s : State) (h : s.resetDone = true) :
    AppendsToLog (readCommand d) s :=
  ⟨s.respond .ok (d s.readPsr), [], (List.append_nil _).symm, fun log => by
    rw [readCommand_next d { s with faultLog := log } h, List.append_nil]; rfl⟩

theorem writeCommand_appendsToLog (u : Word → Word) (s : State) (h : s.resetDone = true) :
    AppendsToLog (writeCommand u) s :=
  ⟨(s.writePsr (u s.readPsr)).respond .ok 0x00000000#32, [], (List.append_nil _).symm, fun log => by
    rw [writeCommand_next u { s with faultLog := log } h, List.append_nil]; rfl⟩

theorem raiseCommand_appendsToLog (e : CommandError) (s : State) (h : s.resetDone = true) :
    AppendsToLog (raiseCommand e) s :=
  ⟨s.raise e, [.error e], rfl, fun log => by rw [raiseCommand_next e { s with faultLog := log } h]; rfl⟩

end Sys2Proof.Machine
end

