-- ==== Sys2Proof/Laws/Exec.lean ====
section
/-! SUPPORT. What each command does after reset, and, once for all commands, what a command that answers next can
have done. -/

namespace Sys2Proof.Machine

/-- RESET runs in every state (R55). -/
theorem exec_reset (s : State) :
    exec .reset s = .next (({ s with resetDone := true }.writePsr resetWord).respond .ok 0x00000000#32) := rfl

/-- GET_MODE in a legal mode (R62). -/
theorem exec_getMode_legal (s : State) (m : Mode) (h : modeDecode (modeField s.readPsr) = some m) :
    exec .getMode s = readCommand (fun psr => (modeField psr).setWidth 32) s := by
  simp only [exec, execGetMode, h]

/-- GET_MODE in an illegal mode (R62, R83). -/
theorem exec_getMode_illegal (s : State) (h : modeDecode (modeField s.readPsr) = none) :
    exec .getMode s = raiseCommand (.invalidMode (modeField s.readPsr)) s := by
  simp only [exec, execGetMode, h]

/-- SET_MODE with a legal code (R63). -/
theorem exec_setMode_legal (s : State) (code : ModeCode) (m : Mode) (h : modeDecode code = some m) :
    exec (.setMode code) s = writeCommand (writeModeField s.policy code) s := by
  simp only [exec, execSetMode, h]

/-- SET_MODE with an illegal code (R63, R85). -/
theorem exec_setMode_illegal (s : State) (code : ModeCode) (h : modeDecode code = none) :
    exec (.setMode code) s = raiseCommand (.illegalOperand code) s := by
  simp only [exec, execSetMode, h]

/-- The shape a command has in a state: RESET, a read, a write of `PSR`, or a raise. -/
theorem exec_shape (i : Instr) (s : State) :
    i = .reset ∨
    (i.writes = false ∧ ∃ d, exec i s = readCommand d s) ∨
    (i.writes = true ∧ ∃ u, exec i s = writeCommand u s) ∨
    (i = .getMode ∧ modeDecode (modeField s.readPsr) = none ∧
      exec i s = raiseCommand (.invalidMode (modeField s.readPsr)) s) ∨
    (∃ code, i = .setMode code ∧ modeDecode code = none ∧ exec i s = raiseCommand (.illegalOperand code) s) := by
  cases i with
  | reset => exact .inl rfl
  | getMode =>
    cases h : modeDecode (modeField s.readPsr) with
    | none => exact .inr (.inr (.inr (.inl ⟨rfl, rfl, exec_getMode_illegal s h⟩)))
    | some m => exact .inr (.inl ⟨rfl, _, exec_getMode_legal s m h⟩)
  | setMode code =>
    cases h : modeDecode code with
    | none => exact .inr (.inr (.inr (.inr ⟨code, rfl, h, exec_setMode_illegal s code h⟩)))
    | some m => exact .inr (.inr (.inl ⟨rfl, _, exec_setMode_legal s code m h⟩))
  | nop => exact .inr (.inl ⟨rfl, fun _ => 0x00000000#32, rfl⟩)
  | get => exact .inr (.inl ⟨rfl, fun psr => psr, rfl⟩)
  | getState => exact .inr (.inl ⟨rfl, fun psr => zextBit (readBit psr bitT), rfl⟩)
  | getIrqDis => exact .inr (.inl ⟨rfl, fun psr => zextBit (readBit psr bitI), rfl⟩)
  | getFiqDis => exact .inr (.inl ⟨rfl, fun psr => zextBit (readBit psr bitF), rfl⟩)
  | getN => exact .inr (.inl ⟨rfl, fun psr => zextBit (readBit psr bitN), rfl⟩)
  | getZ => exact .inr (.inl ⟨rfl, fun psr => zextBit (readBit psr bitZ), rfl⟩)
  | getC => exact .inr (.inl ⟨rfl, fun psr => zextBit (readBit psr bitC), rfl⟩)
  | getV => exact .inr (.inl ⟨rfl, fun psr => zextBit (readBit psr bitV), rfl⟩)
  | getFlags => exact .inr (.inl ⟨rfl, fun psr => (extractFlags psr).setWidth 32, rfl⟩)
  | set value => exact .inr (.inr (.inl ⟨rfl, fun _ => value &&& keepMask, rfl⟩))
  | setState state => exact .inr (.inr (.inl ⟨rfl, insertBit bitT (boolOfState state), rfl⟩))
  | setIrqDis b => exact .inr (.inr (.inl ⟨rfl, insertBit bitI b, rfl⟩))
  | setFiqDis b => exact .inr (.inr (.inl ⟨rfl, insertBit bitF b, rfl⟩))
  | setN b => exact .inr (.inr (.inl ⟨rfl, insertBit bitN b, rfl⟩))
  | setZ b => exact .inr (.inr (.inl ⟨rfl, insertBit bitZ b, rfl⟩))
  | setC b => exact .inr (.inr (.inl ⟨rfl, insertBit bitC b, rfl⟩))
  | setV b => exact .inr (.inr (.inl ⟨rfl, insertBit bitV b, rfl⟩))
  | setFlags f => exact .inr (.inr (.inl ⟨rfl, packFlags f, rfl⟩))

/-- What a command that answers next has done to the state: everything it can have done. -/
theorem exec_cases (i : Instr) (s t : State) (h : exec i s = .next t) :
    (i = .reset ∧ t = ({ s with resetDone := true }.writePsr resetWord).respond .ok 0x00000000#32) ∨
    s.resetDone = true ∧
      ((i.writes = false ∧ ∃ data, t = s.respond .ok data) ∨
        (i.writes = true ∧ ∃ w, t = (s.writePsr w).respond .ok 0x00000000#32) ∨
        (i = .getMode ∧ modeDecode (modeField s.readPsr) = none ∧
          t = s.raise (.invalidMode (modeField s.readPsr))) ∨
        (∃ code, i = .setMode code ∧ modeDecode code = none ∧ t = s.raise (.illegalOperand code))) := by
  obtain rfl | ⟨hw, d, e⟩ | ⟨hw, u, e⟩ | ⟨rfl, hn, e⟩ | ⟨code, rfl, hn, e⟩ := exec_shape i s
  · rw [exec_reset] at h
    cases h
    exact .inl ⟨rfl, rfl⟩
  · obtain ⟨done, rfl⟩ := readCommand_inv d s t (e ▸ h)
    exact .inr ⟨done, .inl ⟨hw, _, rfl⟩⟩
  · obtain ⟨done, rfl⟩ := writeCommand_inv u s t (e ▸ h)
    exact .inr ⟨done, .inr (.inl ⟨hw, _, rfl⟩)⟩
  · obtain ⟨done, rfl⟩ := raiseCommand_inv _ s t (e ▸ h)
    exact .inr ⟨done, .inr (.inr (.inl ⟨rfl, hn, rfl⟩))⟩
  · obtain ⟨done, rfl⟩ := raiseCommand_inv _ s t (e ▸ h)
    exact .inr ⟨done, .inr (.inr (.inr ⟨code, rfl, hn, rfl⟩))⟩

/-- After reset a command only appends to the fault log, whatever is in it. -/
theorem exec_appendsToLog (i : Instr) (s : State) (h : s.resetDone = true) : AppendsToLog (exec i) s := by
  cases i with
  | reset =>
    exact ⟨({ s with resetDone := true }.writePsr resetWord).respond .ok 0x00000000#32, [], (List.append_nil _).symm,
      fun log => by rw [exec_reset, List.append_nil]; rfl⟩
  | getMode =>
    cases hm : modeDecode (modeField s.readPsr) with
    | none =>
      obtain ⟨t, added, ht, hr⟩ := raiseCommand_appendsToLog (.invalidMode (modeField s.readPsr)) s h
      exact ⟨t, added, ht, fun log => (exec_getMode_illegal { s with faultLog := log } hm).trans (hr log)⟩
    | some m =>
      obtain ⟨t, added, ht, hr⟩ := readCommand_appendsToLog (fun psr => (modeField psr).setWidth 32) s h
      exact ⟨t, added, ht, fun log => (exec_getMode_legal { s with faultLog := log } m hm).trans (hr log)⟩
  | setMode code =>
    cases hm : modeDecode code with
    | none =>
      obtain ⟨t, added, ht, hr⟩ := raiseCommand_appendsToLog (.illegalOperand code) s h
      exact ⟨t, added, ht, fun log => (exec_setMode_illegal { s with faultLog := log } code hm).trans (hr log)⟩
    | some m =>
      obtain ⟨t, added, ht, hr⟩ := writeCommand_appendsToLog (writeModeField s.policy code) s h
      exact ⟨t, added, ht, fun log => (exec_setMode_legal { s with faultLog := log } code m hm).trans (hr log)⟩
  | nop => exact readCommand_appendsToLog (fun _ => 0x00000000#32) s h
  | get => exact readCommand_appendsToLog (fun psr => psr) s h
  | getState => exact readCommand_appendsToLog (fun psr => zextBit (readBit psr bitT)) s h
  | getIrqDis => exact readCommand_appendsToLog (fun psr => zextBit (readBit psr bitI)) s h
  | getFiqDis => exact readCommand_appendsToLog (fun psr => zextBit (readBit psr bitF)) s h
  | getN => exact readCommand_appendsToLog (fun psr => zextBit (readBit psr bitN)) s h
  | getZ => exact readCommand_appendsToLog (fun psr => zextBit (readBit psr bitZ)) s h
  | getC => exact readCommand_appendsToLog (fun psr => zextBit (readBit psr bitC)) s h
  | getV => exact readCommand_appendsToLog (fun psr => zextBit (readBit psr bitV)) s h
  | getFlags => exact readCommand_appendsToLog (fun psr => (extractFlags psr).setWidth 32) s h
  | set value => exact writeCommand_appendsToLog (fun _ => value &&& keepMask) s h
  | setState x => exact writeCommand_appendsToLog (insertBit bitT (boolOfState x)) s h
  | setIrqDis b => exact writeCommand_appendsToLog (insertBit bitI b) s h
  | setFiqDis b => exact writeCommand_appendsToLog (insertBit bitF b) s h
  | setN b => exact writeCommand_appendsToLog (insertBit bitN b) s h
  | setZ b => exact writeCommand_appendsToLog (insertBit bitZ b) s h
  | setC b => exact writeCommand_appendsToLog (insertBit bitC b) s h
  | setV b => exact writeCommand_appendsToLog (insertBit bitV b) s h
  | setFlags f => exact writeCommand_appendsToLog (packFlags f) s h

/-- After reset every command answers next. -/
theorem exec_completes (i : Instr) (s : State) (h : s.resetDone = true) : ∃ t, exec i s = .next t := by
  obtain rfl | ⟨-, d, e⟩ | ⟨-, u, e⟩ | ⟨rfl, -, e⟩ | ⟨code, rfl, -, e⟩ := exec_shape i s
  · exact ⟨_, exec_reset s⟩
  · exact ⟨_, e ▸ readCommand_next d s h⟩
  · exact ⟨_, e ▸ writeCommand_next u s h⟩
  · exact ⟨_, e ▸ raiseCommand_next _ s h⟩
  · exact ⟨_, e ▸ raiseCommand_next _ s h⟩

/-- Before reset every command but RESET is refused (R95). -/
theorem exec_beforeReset (i : Instr) (s : State) (hi : i ≠ .reset) (h : s.resetDone = false) :
    exec i s = .refused .beforeReset := by
  obtain rfl | ⟨-, d, e⟩ | ⟨-, u, e⟩ | ⟨rfl, -, e⟩ | ⟨code, rfl, -, e⟩ := exec_shape i s
  · exact absurd rfl hi
  all_goals rw [e]; exact afterReset_refused s _ h

end Sys2Proof.Machine
end

