-- ==== Sys2Proof/Laws/PerInstr.lean ====
section
/-! SUPPORT. Statements about every instruction as syntax, one lemma per constructor. -/

/-- R41 and R43: the op code is one of the 22 of the map, and its bit 0 says whether the command writes `PSR`. -/
def Sys2Proof.Laws.OpClass.Statement (i : Sys2Proof.Instr) : Prop :=
  (Sys2Proof.opCode i).toNat < 22 ∧ (Sys2Proof.opCode i).getLsbD 0 = i.writes

theorem Sys2Proof.Laws.OpClass.nop : Sys2Proof.Laws.OpClass.Statement .nop := by
  unfold Sys2Proof.Laws.OpClass.Statement
  decide

theorem Sys2Proof.Laws.OpClass.reset : Sys2Proof.Laws.OpClass.Statement .reset := by
  unfold Sys2Proof.Laws.OpClass.Statement
  decide

theorem Sys2Proof.Laws.OpClass.get : Sys2Proof.Laws.OpClass.Statement .get := by
  unfold Sys2Proof.Laws.OpClass.Statement
  decide

theorem Sys2Proof.Laws.OpClass.set (value : Sys2Proof.Word) : Sys2Proof.Laws.OpClass.Statement (.set value) := by
  simp [Sys2Proof.Laws.OpClass.Statement, Sys2Proof.opCode, Sys2Proof.Instr.writes]

theorem Sys2Proof.Laws.OpClass.getState : Sys2Proof.Laws.OpClass.Statement .getState := by
  unfold Sys2Proof.Laws.OpClass.Statement
  decide

theorem Sys2Proof.Laws.OpClass.setState (state : Sys2Proof.ExecState) : Sys2Proof.Laws.OpClass.Statement (.setState state) := by
  simp [Sys2Proof.Laws.OpClass.Statement, Sys2Proof.opCode, Sys2Proof.Instr.writes]

theorem Sys2Proof.Laws.OpClass.getMode : Sys2Proof.Laws.OpClass.Statement .getMode := by
  unfold Sys2Proof.Laws.OpClass.Statement
  decide

theorem Sys2Proof.Laws.OpClass.setMode (code : Sys2Proof.ModeCode) : Sys2Proof.Laws.OpClass.Statement (.setMode code) := by
  simp [Sys2Proof.Laws.OpClass.Statement, Sys2Proof.opCode, Sys2Proof.Instr.writes]

theorem Sys2Proof.Laws.OpClass.getIrqDis : Sys2Proof.Laws.OpClass.Statement .getIrqDis := by
  unfold Sys2Proof.Laws.OpClass.Statement
  decide

theorem Sys2Proof.Laws.OpClass.setIrqDis (disabled : Bool) : Sys2Proof.Laws.OpClass.Statement (.setIrqDis disabled) := by
  simp [Sys2Proof.Laws.OpClass.Statement, Sys2Proof.opCode, Sys2Proof.Instr.writes]

theorem Sys2Proof.Laws.OpClass.getFiqDis : Sys2Proof.Laws.OpClass.Statement .getFiqDis := by
  unfold Sys2Proof.Laws.OpClass.Statement
  decide

theorem Sys2Proof.Laws.OpClass.setFiqDis (disabled : Bool) : Sys2Proof.Laws.OpClass.Statement (.setFiqDis disabled) := by
  simp [Sys2Proof.Laws.OpClass.Statement, Sys2Proof.opCode, Sys2Proof.Instr.writes]

theorem Sys2Proof.Laws.OpClass.getN : Sys2Proof.Laws.OpClass.Statement .getN := by
  unfold Sys2Proof.Laws.OpClass.Statement
  decide

theorem Sys2Proof.Laws.OpClass.setN (flag : Bool) : Sys2Proof.Laws.OpClass.Statement (.setN flag) := by
  simp [Sys2Proof.Laws.OpClass.Statement, Sys2Proof.opCode, Sys2Proof.Instr.writes]

theorem Sys2Proof.Laws.OpClass.getZ : Sys2Proof.Laws.OpClass.Statement .getZ := by
  unfold Sys2Proof.Laws.OpClass.Statement
  decide

theorem Sys2Proof.Laws.OpClass.setZ (flag : Bool) : Sys2Proof.Laws.OpClass.Statement (.setZ flag) := by
  simp [Sys2Proof.Laws.OpClass.Statement, Sys2Proof.opCode, Sys2Proof.Instr.writes]

theorem Sys2Proof.Laws.OpClass.getC : Sys2Proof.Laws.OpClass.Statement .getC := by
  unfold Sys2Proof.Laws.OpClass.Statement
  decide

theorem Sys2Proof.Laws.OpClass.setC (flag : Bool) : Sys2Proof.Laws.OpClass.Statement (.setC flag) := by
  simp [Sys2Proof.Laws.OpClass.Statement, Sys2Proof.opCode, Sys2Proof.Instr.writes]

theorem Sys2Proof.Laws.OpClass.getV : Sys2Proof.Laws.OpClass.Statement .getV := by
  unfold Sys2Proof.Laws.OpClass.Statement
  decide

theorem Sys2Proof.Laws.OpClass.setV (flag : Bool) : Sys2Proof.Laws.OpClass.Statement (.setV flag) := by
  simp [Sys2Proof.Laws.OpClass.Statement, Sys2Proof.opCode, Sys2Proof.Instr.writes]

theorem Sys2Proof.Laws.OpClass.getFlags : Sys2Proof.Laws.OpClass.Statement .getFlags := by
  unfold Sys2Proof.Laws.OpClass.Statement
  decide

theorem Sys2Proof.Laws.OpClass.setFlags (flags : Sys2Proof.Nzcv) : Sys2Proof.Laws.OpClass.Statement (.setFlags flags) := by
  simp [Sys2Proof.Laws.OpClass.Statement, Sys2Proof.opCode, Sys2Proof.Instr.writes]
end

