-- ==== Sys2Proof/Laws/Step.lean ====
section
/-! SUPPORT. What a step does, by what the client does in it. -/

namespace Sys2Proof.Machine

theorem runCommand_ok (op : OpCode) (w : Word) (i : Instr) (s : State) (h : decodeCommand op w = .ok i) :
    runCommand op w s = exec i s := by
  simp only [runCommand, decode_cmdWord, h]

theorem runCommand_reserved (op : OpCode) (w : Word) (s : State) (h : decodeCommand op w = .error (.reservedOp op)) :
    runCommand op w s = raiseCommand (.illegalCommand op) s := by
  simp only [runCommand, decode_cmdWord, h]

/-- A command on the port is a decoded instruction's meaning, or the raise of a reserved op code. -/
theorem runCommand_cases (op : OpCode) (w : Word) (s : State) :
    (∃ i, decodeCommand op w = .ok i ∧ runCommand op w s = exec i s) ∨
    (22 ≤ op.toNat ∧ runCommand op w s = raiseCommand (.illegalCommand op) s) := by
  cases h : decodeCommand op w with
  | ok i => exact .inl ⟨i, rfl, runCommand_ok op w i s h⟩
  | error e =>
    obtain ⟨rfl, hr⟩ := decodeCommand_error op w e h
    exact .inr ⟨hr, runCommand_reserved op w s h⟩

/-- After reset a command on the port only appends to the fault log, whatever is in it. -/
theorem runCommand_appendsToLog (op : OpCode) (w : Word) (s : State) (h : s.resetDone = true) :
    AppendsToLog (runCommand op w) s := by
  cases hd : decodeCommand op w with
  | ok i =>
    obtain ⟨t, added, ht, hr⟩ := exec_appendsToLog i s h
    exact ⟨t, added, ht, fun log => (runCommand_ok op w i _ hd).trans (hr log)⟩
  | error e =>
    obtain ⟨rfl, -⟩ := decodeCommand_error op w e hd
    obtain ⟨t, added, ht, hr⟩ := raiseCommand_appendsToLog (.illegalCommand op) s h
    exact ⟨t, added, ht, fun log => (runCommand_reserved op w _ hd).trans (hr log)⟩

/-- A second client is refused (R92). -/
theorem runClientStep_second (x : ClientStep) (s : State) (h : x.client = .second) :
    runClientStep x s = .refused .secondClient := by
  simp only [runClientStep, h]

/-- A step without a command (R39). -/
theorem runClientStep_noCommand (x : ClientStep) (s : State) (ho : x.client = .owner) (hv : x.cmdValid = false) :
    runClientStep x s = .next (s.observeTaps x.tapRead).idle := by
  simp only [runClientStep, ho, hv]
  rfl

/-- A step with a command (R39). -/
theorem runClientStep_command (x : ClientStep) (s : State) (ho : x.client = .owner) (hv : x.cmdValid = true) :
    runClientStep x s = runCommand x.cmdOp x.cmdWdata (s.observeTaps x.tapRead) := by
  simp only [runClientStep, ho, hv]
  rfl

theorem step_nil (s : State) (h : s.schedule = []) : step s = .next s.idle := by
  simp only [step, h]

theorem step_cons (s : State) (x : ClientStep) (rest : List ClientStep) (h : s.schedule = x :: rest) :
    step s = runClientStep x { s with schedule := rest } := by
  simp only [step, h]

/-- Everything a step that answers next can have done: idled at the end of the schedule, or taken the owner's next
entry, which is no command or one command. -/
theorem step_cases (s t : State) (h : step s = .next t) :
    (s.schedule = [] ∧ t = s.idle) ∨
    ∃ x rest, s.schedule = x :: rest ∧ x.client = .owner ∧
      ((x.cmdValid = false ∧ t = ({ s with schedule := rest }.observeTaps x.tapRead).idle) ∨
        (x.cmdValid = true ∧
          runCommand x.cmdOp x.cmdWdata ({ s with schedule := rest }.observeTaps x.tapRead) = .next t)) := by
  cases hs : s.schedule with
  | nil =>
    rw [step_nil s hs] at h
    cases h
    exact .inl ⟨rfl, rfl⟩
  | cons x rest =>
    rw [step_cons s x rest hs] at h
    refine .inr ⟨x, rest, rfl, ?_⟩
    cases hc : x.client with
    | second => simp only [runClientStep, hc] at h; cases h
    | owner =>
      cases hv : x.cmdValid with
      | false =>
        simp only [runClientStep, hc, hv] at h
        cases h
        exact ⟨rfl, .inl ⟨rfl, rfl⟩⟩
      | true =>
        simp only [runClientStep, hc, hv] at h
        exact ⟨rfl, .inr ⟨rfl, h⟩⟩

theorem core_run_zero (s : State) : core.run 0 s = .next s := rfl

/-- A run of `n + 1` steps that answers next takes one step and then runs `n`. -/
theorem core_run_succ (n : Nat) (s u : State) (h : step s = .next u) : core.run (n + 1) s = core.run n u := by
  have hc : core.step s = .next u := h
  simp only [Host.Core.run, hc]

theorem core_run_inv (n : Nat) (s t : State) (h : core.run (n + 1) s = .next t) :
    ∃ u, step s = .next u ∧ core.run n u = .next t := by
  simp only [Host.Core.run] at h
  split at h
  · exact ⟨_, ‹_›, h⟩
  · cases h
  · cases h

end Sys2Proof.Machine
end

