-- ==== Sys2Proof/Tests/Slice0.lean ====
section
/-! SUPPORT. The model's own tests: the WellFormed smoke tests, every constructor's decoding from a word written out
from the spec's encoding, single steps from the vectors of spec/95_test_vectors.md, and a witness for each statement
that has hypotheses. Expected values are the spec's (each docstring names the table), never the model's answer. -/

namespace Sys2Proof.Tests

open Sys2Proof.Machine Sys2Proof.Stated

/-- A state after reset with this status word, under the default policy. -/
def withPsr (w : Word) : State := { State.reset with psr := w }

/-- The same under `OrMerge`. -/
def withPsrOrMerge (w : Word) : State := { State.launch .orMerge with psr := w }

/-- What a test looks at: the status word, the response, and how many faults are recorded. -/
def seen : Result → Option (Word × RspErr × Word × Nat)
  | .next t => some (t.psr, t.rsp.err, t.rsp.data, t.faultLog.length)
  | .fault _ => none
  | .refused _ => none

/-- One step with this command on the port. -/
def portStep (op : OpCode) (wdata : Word) (s : State) : Option (Word × RspErr × Word × Nat) :=
  seen (step (facing s (command .none op wdata) []))

/-! WellFormed. -/

/-- R42, R44: the ill-formed term of the one check is refused. -/
theorem test_wellFormed_refuses_illegal_mode_code : ¬ (Instr.setMode 0b01100#5).WellFormed := by decide

theorem test_wellFormed_accepts_legal_mode_code : (Instr.setMode 0b10111#5).WellFormed := by decide

theorem test_wellFormed_accepts_reserved_bits_of_set : (Instr.set 0x0FFFFF00#32).WellFormed := by decide

/-! Decoding: each word is op code (5 bits) then write data (32 bits), written out from R41 and R43. -/

theorem test_decode_bulk :
    decode (0b00000#5 ++ 0xFFFFFFFF#32) = .ok .nop ∧
    decode (0b00001#5 ++ 0x12345678#32) = .ok .reset ∧
    decode (0b00010#5 ++ 0x00000000#32) = .ok .get ∧
    decode (0b00011#5 ++ 0xDEADBEEF#32) = .ok (.set 0xDEADBEEF#32) := by decide

theorem test_decode_state :
    decode (0b00100#5 ++ 0x00000001#32) = .ok .getState ∧
    decode (0b00101#5 ++ 0x00000003#32) = .ok (.setState .thumb) ∧
    decode (0b00101#5 ++ 0xFFFFFFFE#32) = .ok (.setState .arm) := by decide

theorem test_decode_mode :
    decode (0b00110#5 ++ 0x00000000#32) = .ok .getMode ∧
    decode (0b00111#5 ++ 0xFFFFFF11#32) = .ok (.setMode 0b10001#5) ∧
    decode (0b00111#5 ++ 0x0000000C#32) = .ok (.setMode 0b01100#5) := by decide

theorem test_decode_masks :
    decode (0b01000#5 ++ 0x00000000#32) = .ok .getIrqDis ∧
    decode (0b01001#5 ++ 0x00000001#32) = .ok (.setIrqDis true) ∧
    decode (0b01010#5 ++ 0x00000000#32) = .ok .getFiqDis ∧
    decode (0b01011#5 ++ 0x00000002#32) = .ok (.setFiqDis false) := by decide

theorem test_decode_flags :
    decode (0b01100#5 ++ 0x00000000#32) = .ok .getN ∧
    decode (0b01101#5 ++ 0x00000002#32) = .ok (.setN false) ∧
    decode (0b01110#5 ++ 0x00000000#32) = .ok .getZ ∧
    decode (0b01111#5 ++ 0x00000001#32) = .ok (.setZ true) ∧
    decode (0b10000#5 ++ 0x00000000#32) = .ok .getC ∧
    decode (0b10001#5 ++ 0x00000001#32) = .ok (.setC true) ∧
    decode (0b10010#5 ++ 0x00000000#32) = .ok .getV ∧
    decode (0b10011#5 ++ 0x00000001#32) = .ok (.setV true) ∧
    decode (0b10100#5 ++ 0x00000000#32) = .ok .getFlags ∧
    decode (0b10101#5 ++ 0xFFFFFFF5#32) = .ok (.setFlags 0b0101#4) := by decide

/-- R44: the first and the last reserved op code. -/
theorem test_decode_rejects_reserved :
    decode (0b10110#5 ++ 0x00000000#32) = .error (.reservedOp 0b10110#5) ∧
    decode (0b11111#5 ++ 0xFFFFFFFF#32) = .error (.reservedOp 0b11111#5) := by decide

/-- P1 step 2: the 37-bit word 0x7_0000001F in 40 table bits. -/
theorem test_decodeTableWord : decodeTableWord 40 0x70000001F = some (.setMode 0b11111#5) := by decide

/-! Single steps. -/

/-- V-BULK. -/
theorem test_nop : portStep 0b00000#5 0xFFFFFFFF#32 (withPsr 0x000000D3#32) = some (0x000000D3#32, .ok, 0#32, 0) := by
  decide

/-- V-BULK: RESET is legal from an illegal mode. -/
theorem test_reset : portStep 0b00001#5 0#32 (withPsr 0x0000000A#32) = some (0x000000D3#32, .ok, 0#32, 0) := by decide

/-- E4. -/
theorem test_get : portStep 0b00010#5 0#32 (withPsr 0xF00000FF#32) = some (0xF00000FF#32, .ok, 0xF00000FF#32, 0) := by
  decide

/-- V-BULK. -/
theorem test_set_masks : portStep 0b00011#5 0xDEADBEEF#32 (withPsr 0x000000D3#32) = some (0xD00000EF#32, .ok, 0#32, 0) := by
  decide

/-- V-BULK: only reserved bits set; all discarded. -/
theorem test_set_reserved_only : portStep 0b00011#5 0x0FFFFF00#32 (withPsr 0x000000D3#32) = some (0#32, .ok, 0#32, 0) := by
  decide

/-- V-STATE. -/
theorem test_getState : portStep 0b00100#5 0#32 (withPsr 0x10000078#32) = some (0x10000078#32, .ok, 1#32, 0) := by decide

/-- V-STATE: bit 0 = 0 is ARM. -/
theorem test_setState_arm : portStep 0b00101#5 0xFFFFFFFE#32 (withPsr 0x000000F3#32) = some (0x000000D3#32, .ok, 0#32, 0) := by
  decide

/-- V-STATE. -/
theorem test_setState_thumb : portStep 0b00101#5 1#32 (withPsr 0x000000D3#32) = some (0x000000F3#32, .ok, 0#32, 0) := by
  decide

/-- V-MODE. -/
theorem test_getMode : portStep 0b00110#5 0#32 (withPsr 0x000000D3#32) = some (0x000000D3#32, .ok, 0x13#32, 0) := by decide

/-- V-MODE, V-ERR. -/
theorem test_getMode_illegal :
    portStep 0b00110#5 0#32 (withPsr 0x10000078#32) = some (0x10000078#32, .invalidMode, 0x18#32, 1) := by decide

/-- V-MODE: Replace repairs an illegal field. -/
theorem test_setMode_replace : portStep 0b00111#5 0x10#32 (withPsr 0x0000000A#32) = some (0x00000010#32, .ok, 0#32, 0) := by
  decide

/-- V-MODE-OR-3, V-MODE-OR-8 and V-MODE-OR-9. -/
theorem test_setMode_orMerge :
    portStep 0b00111#5 0x12#32 (withPsrOrMerge 0x000000D1#32) = some (0x000000D3#32, .ok, 0#32, 0) ∧
    portStep 0b00111#5 0x10#32 (withPsrOrMerge 0x0000000C#32) = some (0x0000001C#32, .ok, 0#32, 0) ∧
    portStep 0b00111#5 0x0C#32 (withPsrOrMerge 0x000000D3#32) = some (0x000000D3#32, .illegalOperand, 0x0C#32, 1) := by
  decide

/-- V-ERR: bits 4:0 = 0b01010. -/
theorem test_setMode_illegal :
    portStep 0b00111#5 0x1F0000AA#32 (withPsr 0x000000D3#32) = some (0x000000D3#32, .illegalOperand, 0x0A#32, 1) := by decide

/-- V-MASK. -/
theorem test_masks :
    portStep 0b01000#5 0#32 (withPsr 0x000000D3#32) = some (0x000000D3#32, .ok, 1#32, 0) ∧
    portStep 0b01001#5 0#32 (withPsr 0x000000D0#32) = some (0x00000050#32, .ok, 0#32, 0) ∧
    portStep 0b01010#5 0#32 (withPsr 0x00000093#32) = some (0x00000093#32, .ok, 0#32, 0) ∧
    portStep 0b01011#5 1#32 (withPsr 0x00000013#32) = some (0x00000053#32, .ok, 0#32, 0) := by decide

/-! V-FLAG: 0xA00000D3 is N=1 Z=0 C=1 V=0. -/

theorem test_getN : portStep 0b01100#5 0#32 (withPsr 0xA00000D3#32) = some (0xA00000D3#32, .ok, 1#32, 0) := by decide

theorem test_getZ : portStep 0b01110#5 0#32 (withPsr 0xA00000D3#32) = some (0xA00000D3#32, .ok, 0#32, 0) := by decide

theorem test_getC : portStep 0b10000#5 0#32 (withPsr 0xA00000D3#32) = some (0xA00000D3#32, .ok, 1#32, 0) := by decide

theorem test_getV : portStep 0b10010#5 0#32 (withPsr 0xA00000D3#32) = some (0xA00000D3#32, .ok, 0#32, 0) := by decide

theorem test_getFlags : portStep 0b10100#5 0#32 (withPsr 0xA00000D3#32) = some (0xA00000D3#32, .ok, 0xA#32, 0) := by decide

theorem test_setN_set : portStep 0b01101#5 1#32 (withPsr 0x000000D3#32) = some (0x800000D3#32, .ok, 0#32, 0) := by decide

theorem test_setN_clear : portStep 0b01101#5 0#32 (withPsr 0xF00000FF#32) = some (0x700000FF#32, .ok, 0#32, 0) := by decide

theorem test_setZ : portStep 0b01111#5 1#32 (withPsr 0x000000D3#32) = some (0x400000D3#32, .ok, 0#32, 0) := by decide

theorem test_setC : portStep 0b10001#5 1#32 (withPsr 0x000000D3#32) = some (0x200000D3#32, .ok, 0#32, 0) := by decide

theorem test_setV : portStep 0b10011#5 0#32 (withPsr 0xF00000FF#32) = some (0xE00000FF#32, .ok, 0#32, 0) := by decide

theorem test_setFlags : portStep 0b10101#5 0xFFFFFFF5#32 (withPsr 0x000000D3#32) = some (0x500000D3#32, .ok, 0#32, 0) := by
  decide

theorem test_setFlags_illegal_mode :
    portStep 0b10101#5 0xF#32 (withPsr 0x0000000A#32) = some (0xF000000A#32, .ok, 0#32, 0) := by decide

/-- V-ERR: only ILLEGAL_COMMAND, though the mode is illegal too (R87). -/
theorem test_reserved_op :
    portStep 0b11000#5 0#32 (withPsr 0x0000000A#32) = some (0x0000000A#32, .illegalCommand, 0x18#32, 1) := by decide

/-- V-ERR: `cmd_valid` = 0. -/
theorem test_no_command :
    seen (step (facing (withPsr 0x0000000A#32) (noCommand 0b11000#5 1#32) [])) = some (0x0000000A#32, .ok, 0#32, 0) := by
  decide

/-- The first step after reset runs the word placed for it: P1 step 2 from the reset word. -/
theorem test_fetch_word_runs_first :
    seen (step (State.reset.withFetchWord 40 0x70000001F)) = some (0x000000DF#32, .ok, 0#32, 0) := by decide

/-- R60: the last rows of the decoder's table. -/
theorem test_mode_decoder :
    modeDecode 0b11111#5 = some .sys ∧ modeOneHot 0b11111#5 = 0b1000000#7 ∧ modeOneHot 0b10111#5 = 0b0010000#7 ∧
    modeDecode 0b11110#5 = none ∧ modeOneHot 0b11110#5 = 0b0000000#7 ∧ modeValid 0b01111#5 = false := by decide

/-- V-VIEW. -/
theorem test_diagnostic_view :
    diagnosticView 0x10000078#32 =
      { mode := .invalid 0b11000#5, state := .thumb, irq := .enabled, fiq := .disabled,
        conditionFlags := { n := false, z := false, c := false, v := true } } := by decide

/-- V-VIEW and E7: the texts of the fields. -/
theorem test_diagnostic_texts :
    modeViewText (.invalid 0b11000#5) = "INVALID(0b11000)" ∧
    flagsViewText (diagnosticView 0xA00000D3#32).conditionFlags = "(N=1 Z=0 C=1 V=0)" := by decide

/-! Witnesses: a concrete state and operands that meet a statement's hypotheses, for each of its clauses. -/

/-- The statements whose only hypothesis is a state after reset: NopIsAnIdleStep, GetStateReadsBitFive,
GetIrqDisReadsBitSeven, GetFiqDisReadsBitSix, FlagReadsAnswerTheirBits, SetFlagsWritesTheNibble. -/
theorem witness_after_reset : State.reset.resetDone = true := rfl

/-- GetReadsTheWholeWord (both clauses), SetStoresTheMaskedWord. -/
theorem witness_bulk_statements :
    State.reset.resetDone = true ∧ State.reset.ReservedZero ∧
    ∃ t, exec (.set 0xFFFFFFFF#32) State.reset = .next t := ⟨rfl, by decide, _, rfl⟩

/-- SetStateWritesBitFive, its held-value clause for both values. -/
theorem witness_SetStateWritesBitFive :
    (withPsr 0x000000F3#32).resetDone = true ∧ (withPsr 0x000000F3#32).readPsr.getLsbD 5 = decide (ExecState.thumb = .thumb) ∧
    (withPsr 0x000000D3#32).readPsr.getLsbD 5 = decide (ExecState.arm = .thumb) ∧
    ∃ t, exec (.setState .thumb) (withPsr 0x000000F3#32) = .next t := ⟨rfl, by decide, by decide, ⟨_, rfl⟩⟩

/-- GetModeAnswersOrRaises: a legal and an illegal field. -/
theorem witness_GetModeAnswersOrRaises :
    (∃ m, ((withPsr 0x00000010#32).readPsr.extractLsb' 0 5, m) ∈ legalCodes) ∧
    (∀ m, ((withPsr 0x0000000F#32).readPsr.extractLsb' 0 5, m) ∉ legalCodes) ∧
    (withPsr 0x00000010#32).resetDone = true := ⟨⟨.usr, by decide⟩, fun m => by cases m <;> decide, rfl⟩

/-- SetModeWritesByPolicy: an illegal code, a legal one, and each policy. -/
theorem witness_SetModeWritesByPolicy :
    (∀ m, (0b11110#5, m) ∉ legalCodes) ∧ (∃ m, (0b11111#5, m) ∈ legalCodes) ∧
    (withPsr 0x000000DF#32).policy = .replace ∧ (withPsrOrMerge 0x000000DF#32).policy = .orMerge ∧
    (withPsr 0x000000DF#32).readPsr.extractLsb' 0 5 = 0b11111#5 ∧ (withPsrOrMerge 0#32).resetDone = true :=
  ⟨fun m => by cases m <;> decide, ⟨.sys, by decide⟩, rfl, rfl, by decide, rfl⟩

/-- OrMergeKeepsLegalButCanMissTheMode and ClearingTheFieldMakesSetModeSafe. -/
theorem witness_OrMerge :
    (withPsrOrMerge 0x000000D1#32).policy = .orMerge ∧ (withPsrOrMerge 0x000000D1#32).resetDone = true ∧
    modeValid 0b10010#5 = true ∧ modeValid 0b10001#5 = true ∧ (withPsrOrMerge 0x000000D1#32).LegalMode ∧
    (withPsr 0#32).policy = .replace ∧
    ∃ t, exec (.setMode 0b10010#5) (withPsrOrMerge 0x000000D1#32) = .next t :=
  ⟨rfl, rfl, by decide, by decide, by decide, rfl, ⟨_, rfl⟩⟩

/-- SetIrqDisWritesBitSeven and SetFiqDisWritesBitSix, the held-value clauses. -/
theorem witness_mask_statements :
    (withPsr 0x000000D3#32).readPsr.getLsbD 7 = true ∧ (withPsr 0x00000013#32).readPsr.getLsbD 7 = false ∧
    (withPsr 0x000000D3#32).readPsr.getLsbD 6 = true ∧ (withPsr 0x00000013#32).readPsr.getLsbD 6 = false ∧
    (withPsr 0x000000D3#32).resetDone = true := by decide

/-- FlagWritesStoreTheirBits and FlagWriteOfTheOldValueRestores: the highest and the lowest flag, clear and set. -/
theorem witness_FlagWritesStoreTheirBits :
    (31, Instr.setN) ∈ flagWriters ∧ (28, Instr.setV) ∈ flagWriters ∧ State.reset.resetDone = true ∧
    State.reset.readPsr.getLsbD 31 = false ∧ State.reset.readPsr.getLsbD 28 = false ∧
    (withPsr 0xF00000D3#32).readPsr.getLsbD 31 = true ∧ (withPsr 0xF00000D3#32).readPsr.getLsbD 28 = true :=
  ⟨by simp [flagWriters], by simp [flagWriters], by decide⟩

/-- GetFlagsReadsTheNibble and PackedAndSingleFlagsAgree: an order of the writes other than
the listed one. -/
theorem witness_PackedAndSingleFlagsAgree :
    State.reset.resetDone = true ∧
    [Instr.setV true, .setC false, .setZ true, .setN false].Perm [.setN false, .setZ true, .setC false, .setV true] ∧
    ∃ t, exec (.setFlags 0b0101#4) State.reset = .next t := ⟨rfl, by decide, ⟨_, rfl⟩⟩

/-- ReservedOpsRaiseIllegalCommand: the least and the greatest reserved op code and the greatest op code in use. -/
theorem witness_ReservedOpsRaiseIllegalCommand :
    State.reset.resetDone = true ∧ 0b10110 ≤ (0b10110#5 : OpCode).toNat ∧ 0b10110 ≤ (0b11111#5 : OpCode).toNat ∧
    (0b10101#5 : OpCode).toNat < 0b10110 ∧ ∃ t, exec .get State.reset = .next t :=
  ⟨rfl, by decide, by decide, by decide, ⟨_, rfl⟩⟩

/-- IllegalModeCodesRaiseIllegalOperand: write data on both sides. -/
theorem witness_IllegalModeCodesRaiseIllegalOperand :
    State.reset.resetDone = true ∧ modeValid ((0xFFFFFFEF#32 : Word).extractLsb' 0 5) = false ∧
    modeValid ((0xFFFFFFF0#32 : Word).extractLsb' 0 5) = true := by decide

/-- TypedTapReadFaultsInIllegalMode, both clauses. -/
theorem witness_TypedTapReadFaultsInIllegalMode :
    (withPsr 0x0000000A#32).resetDone = true ∧
    modeDecode ((withPsr 0x0000000A#32).readPsr.extractLsb' 0 5) = none ∧
    modeDecode ((withPsr 0x000000DF#32).readPsr.extractLsb' 0 5) = some .sys := by decide

/-- NoOtherCommandFails: GET_MODE in a legal mode, and a well-formed SET_MODE. -/
theorem witness_NoOtherCommandFails :
    State.reset.resetDone = true ∧ State.reset.LegalMode ∧ (Instr.setMode 0b10000#5).WellFormed ∧
    ∃ t, exec (.set 0x0FFFFF0A#32) State.reset = .next t := ⟨rfl, by decide, by decide, _, rfl⟩

/-- ReadCommandsHaveNoSideEffect. -/
theorem witness_ReadCommandsHaveNoSideEffect :
    Instr.getMode ∈ readCommands ∧ (∀ j ∈ [Instr.get, .nop], j ∈ readCommands) ∧
    ∃ t u, exec .getMode (withPsr 0x0000000A#32) = .next t ∧ runAll [.get, .nop] t = .next u :=
  ⟨by decide, by decide, _, _, rfl, rfl⟩

/-- FieldWritesTouchOnlyTheirField: the least and the greatest field, and a kept bit under `OrMerge`. -/
theorem witness_FieldWritesTouchOnlyTheirField :
    writtenField (.setMode 0b10010#5) = some (0, 5) ∧ writtenField (.setFlags 0b1111#4) = some (28, 4) ∧
    (withPsrOrMerge 0x000000D1#32).policy = .orMerge ∧ (withPsrOrMerge 0x000000D1#32).readPsr.getLsbD 0 = true ∧
    ∃ t, exec (.setMode 0b10010#5) (withPsrOrMerge 0x000000D1#32) = .next t ∧ t.rsp.err = .ok :=
  ⟨rfl, rfl, rfl, by decide, _, rfl, rfl⟩

/-- EncodeOfDecode. -/
theorem witness_EncodeOfDecode : decode (0b10101#5 ++ 0xFFFFFFF5#32) = .ok (.setFlags 0b0101#4) := by decide

/-- IgnoredBitsHaveNoEffect: two write data that differ in every ignored bit of SET_MODE and of SET_STATE. -/
theorem witness_IgnoredBitsHaveNoEffect :
    (0xFFFFFFF1#32 : Word).extractLsb' 0 5 = (0x00000011#32 : Word).extractLsb' 0 5 ∧
    (0xFFFFFFFE#32 : Word).getLsbD 0 = (0x00000000#32 : Word).getLsbD 0 ∧ (0b00111#5 : OpCode) ≠ 0b00011#5 := by decide

/-- OpBitZeroMarksWriters, its clauses on what decodes and on the odd op codes of the map: a read, the first and the
last writer. -/
theorem witness_OpBitZeroMarksWriters :
    decode (0b10100#5 ++ 0#32) = .ok .getFlags ∧ Instr.getFlags.writes = false ∧
    decode (0b00001#5 ++ 0#32) = .ok .reset ∧ Instr.reset.writes = true ∧
    (0b10101#5 : OpCode).getLsbD 0 = true ∧ (0b10101#5 : OpCode).toNat < 0b10110 := by decide

/-- OpBitZeroMarksWriters and EachErrorBelongsToOneOp: a read, a write, and each raise. -/
theorem witness_port_commands :
    (∃ t, runCommand 0b00110#5 0#32 (withPsr 0x0000000A#32) = .next t ∧ t.faultLog ≠ []) ∧
    (∃ t, runCommand 0b00111#5 0x0C#32 State.reset = .next t ∧ t.faultLog ≠ []) ∧
    (∃ t, runCommand 0b10110#5 0#32 State.reset = .next t ∧ t.faultLog ≠ []) ∧
    (∃ t, runCommand 0b00011#5 1#32 State.reset = .next t ∧ t.rsp.err = .ok) ∧
    (0b00110#5 : OpCode).getLsbD 0 = false ∧ (0b00011#5 : OpCode).getLsbD 0 = true :=
  ⟨⟨_, rfl, by decide⟩, ⟨_, rfl, by decide⟩, ⟨_, rfl, by decide⟩, ⟨_, rfl, rfl⟩, by decide, by decide⟩

/-- ReservedBitsStayZero: a state that has the invariant and steps, and a run of two steps. -/
theorem witness_ReservedBitsStayZero :
    State.reset.psr &&& 0x0FFFFF00#32 = 0#32 ∧ (∃ t, step State.reset = .next t) ∧
    ∃ t, core.run 2 { State.launch .orMerge with schedule := [command .raw 0b00011#5 0xFFFFFFFF#32] } = .next t :=
  ⟨by decide, ⟨_, rfl⟩, ⟨_, rfl⟩⟩

/-- IllegalModeComesOnlyFromSet: a step that does leave an illegal mode, and a SET_MODE under `Replace`. -/
theorem witness_IllegalModeComesOnlyFromSet :
    State.reset.resetDone = true ∧ State.reset.LegalMode ∧
    (∃ t, step (facing State.reset (command .none 0b00011#5 0x0000000A#32) []) = .next t ∧ ¬ t.LegalMode) ∧
    (∃ t, exec (.setMode 0b10000#5) (withPsr 0x0000000A#32) = .next t ∧ t.rsp.err = .ok) ∧
    (withPsr 0x0000000A#32).policy = .replace :=
  ⟨rfl, by decide, ⟨_, rfl, by decide⟩, ⟨_, rfl, rfl⟩, rfl⟩

/-- FaultLogOnlyGrows and RaiseLeavesTheBlockUnchanged: a step that records two faults and answers an error. -/
theorem witness_fault_log_statements :
    ∃ t, step (facing (withPsr 0x0000000A#32) (command .typedMode 0b00110#5 0#32) []) = .next t ∧
      t.rsp.err ≠ .ok ∧ t.faultLog.length = 2 := ⟨_, rfl, by decide, by decide⟩

/-- StepRunsTheDecodedCommand, with and without a tap read. -/
theorem witness_StepRunsTheDecodedCommand :
    (facing State.reset (command .none 0b00010#5 0#32) []).schedule = [command .none 0b00010#5 0#32] ∧
    (command .typedMode 0b00010#5 0#32).client = .owner ∧ (command .none 0b00010#5 0#32).cmdValid = true ∧
    (command .none 0b00010#5 0#32).tapRead = .none ∧ decode (0b00010#5 ++ 0#32) = .ok .get := by decide

/-- FetchWordRunsNext. -/
theorem witness_FetchWordRunsNext : decodeTableWord 40 0x1500000004 = some (.setFlags 0b0100#4) := by decide

/-- NoCommandLeavesPsr. -/
theorem witness_NoCommandLeavesPsr : State.reset.schedule = [] := rfl

/-- BeforeResetOnlyResetRuns and PowerOnWordIsUnobservable. -/
theorem witness_before_reset :
    (State.powerOn .replace 0xDEADBEEF#32).resetDone = false ∧ (0b10110#5 : OpCode) ≠ 0b00001#5 ∧
    TapRead.raw ≠ TapRead.none ∧ TapRead.typedMode ≠ TapRead.none := by decide

/-- SecondClientHasNoStep. -/
theorem witness_SecondClientHasNoStep :
    ∃ x rest, (facing State.reset { noCommand 0#5 0#32 with client := .second } []).schedule = x :: rest ∧
      x.client = .second := ⟨_, _, rfl, rfl⟩

/-- TapsEqualTheirReadCommands, both clauses about the mode tap; by the table of R48, Supervisor is bit 3 and an
illegal pattern has no bit. -/
theorem witness_TapsEqualTheirReadCommands :
    State.reset.resetDone = true ∧ (tapsOf 0x000000D3#32).modeValidQ = true ∧
    (tapsOf 0x000000D3#32).modeOneHotQ = 0b0001000#7 ∧ (tapsOf 0x0000000A#32).modeOneHotQ = 0b0000000#7 ∧
    (0b01010#5 : ModeCode) ∉ legalCodes.map Prod.fst ∧
    (tapsOf 0x0000000A#32).modeValidQ = false ∧ (withPsr 0x0000000A#32).readTaps = .ok (tapsOf 0x0000000A#32) := by decide

/-- TapsShowTheOldValueInTheWriteStep: a legal and an illegal old mode, a legal SET_MODE, each policy. -/
theorem witness_TapsShowTheOldValueInTheWriteStep :
    (withPsr 0x0000000A#32).resetDone = true ∧ ¬ (withPsr 0x0000000A#32).LegalMode ∧
    (withPsr 0x000000D3#32).LegalMode ∧ modeValid ((0x00000010#32 : Word).extractLsb' 0 5) = true ∧
    (withPsr 0x0000000A#32).policy = .replace ∧ (withPsrOrMerge 0x0000000A#32).policy = .orMerge := by decide

/-- R97: in the step of a RESET from an illegal mode a typed tap read is a fault with the old pattern, and in the step
of a SET_MODE from a legal one it is not. -/
theorem test_tap_read_in_the_step_of_a_mode_write :
    (∃ t, step (facing (withPsr 0x0000000A#32) (command .typedMode 0b00001#5 0#32) []) = .next t ∧
      t.psr = 0x000000D3#32 ∧ t.faultLog = [.error (.invalidMode 0b01010#5)]) ∧
    (∃ t, step (facing State.reset (command .typedMode 0b00111#5 0x10#32) []) = .next t ∧
      t.psr = 0x000000D0#32 ∧ t.faultLog = []) :=
  ⟨⟨_, rfl, by decide, by decide⟩, ⟨_, rfl, by decide, by decide⟩⟩

/-- SavedWordRestoresExactly: the commands of P1 steps 7 to 10 between. -/
theorem witness_SavedWordRestoresExactly :
    ∃ t u, exec .get (withPsr 0x4000001F#32) = .next t ∧
      runAll [.setMode 0b10010#5, .setState .arm, .setIrqDis true, .setN true] t = .next u := ⟨_, _, rfl, rfl⟩

/-- SetWordDecidesTheModeRead: a legal and an illegal word. -/
theorem witness_SetWordDecidesTheModeRead :
    State.reset.resetDone = true ∧ LegalModeWord 0xFFFFFFFF#32 ∧ ¬ LegalModeWord 0x0000000A#32 ∧ State.reset.LegalMode ∧
    (∃ t, exec (.set 0x0000000A#32) State.reset = .next t) ∧ ∃ t, exec .get State.reset = .next t :=
  ⟨rfl, by decide, by decide, by decide, ⟨_, rfl⟩, ⟨_, rfl⟩⟩

/-- EveryScheduleRunsToItsEnd: a schedule with a reserved op code and a step without a command. -/
theorem witness_EveryScheduleRunsToItsEnd :
    State.reset.resetDone = true ∧
    ∀ x ∈ (facing State.reset (command .none 0b11111#5 0#32) [noCommand 0#5 0#32]).schedule, x.client = .owner := by decide

/-- ScheduleRunsInOrder. -/
theorem witness_ScheduleRunsInOrder : (withPsr 0x000000D0#32).schedule = [] := rfl

/-- ModeDoesNotGateOtherFields: a command it is about. -/
theorem witness_ModeDoesNotGateOtherFields :
    Instr.setIrqDis false ≠ .reset ∧ (∀ v, Instr.setIrqDis false ≠ .set v) ∧ Instr.setIrqDis false ≠ .get ∧
    Instr.setIrqDis false ≠ .getMode ∧ ∀ c, Instr.setIrqDis false ≠ .setMode c := by
  simp

/-- StepFrameOfTheEnvironment. -/
theorem witness_StepFrameOfTheEnvironment :
    State.reset.resetDone = true ∧ ∃ t, step State.reset = .next t := ⟨rfl, _, rfl⟩

/-- DiagnosticViewFields: a legal and an illegal mode field. -/
theorem witness_DiagnosticViewFields :
    modeDecode ((0xF00000FF#32 : Word).extractLsb' 0 5) = some .sys ∧
    modeDecode ((0x10000078#32 : Word).extractLsb' 0 5) = none := by decide

/-- R82: the step of a reserved op code answers next, and is no successful run, since its fault is recorded. -/
theorem test_faults_refute_a_run : ∀ t, ¬ SuccessfulRun 1 (facing State.reset (command .none 0b10110#5 0#32) []) t := by
  intro t h
  obtain ⟨u, hu, hr⟩ := core_run_inv 0 _ t h.1
  cases hu
  cases hr
  exact absurd h.2 (by decide)

end Sys2Proof.Tests
end

section
/-! The frame of a step on the environment: no operation changes the policy, the schedule is touched by `step` alone,
and the reset-done premise is only ever made true. Nothing answers the interface's fault outcome
(notes/assumptions/1.md). -/

namespace Sys2Proof.Machine

/-- `t` has the policy and the schedule of `s`, and is after reset if `s` is. -/
structure KeepsEnvironment (s t : State) : Prop where
  policy : t.policy = s.policy
  schedule : t.schedule = s.schedule
  resetDone : s.resetDone = true → t.resetDone = true

theorem observeTaps_idle_keepsEnvironment (s : State) (r : TapRead) : KeepsEnvironment s (s.observeTaps r).idle where
  policy := by simp
  schedule := by simp
  resetDone := by simp

theorem raise_keepsEnvironment (s : State) (e : CommandError) : KeepsEnvironment s (s.raise e) := ⟨rfl, rfl, id⟩

theorem exec_keepsEnvironment (i : Instr) (s t : State) (h : exec i s = .next t) : KeepsEnvironment s t := by
  obtain ⟨-, rfl⟩ | ⟨-, ⟨-, data, rfl⟩ | ⟨-, w, rfl⟩ | ⟨-, -, rfl⟩ | ⟨code, -, -, rfl⟩⟩ := exec_cases i s t h
  · exact ⟨rfl, rfl, fun _ => rfl⟩
  · exact ⟨rfl, rfl, id⟩
  · exact ⟨rfl, rfl, id⟩
  · exact raise_keepsEnvironment s _
  · exact raise_keepsEnvironment s _

theorem runCommand_keepsEnvironment (op : OpCode) (w : Word) (s t : State) (h : runCommand op w s = .next t) :
    KeepsEnvironment s t := by
  obtain ⟨i, -, hi⟩ | ⟨-, hr⟩ := runCommand_cases op w s
  · exact exec_keepsEnvironment i s t (hi ▸ h)
  · obtain ⟨-, rfl⟩ := raiseCommand_inv _ s t (hr ▸ h)
    exact raise_keepsEnvironment s _

/-- A command sees the environment through the tap read of its step. -/
theorem keepsEnvironment_of_observeTaps (s t : State) (r : TapRead) (h : KeepsEnvironment (s.observeTaps r) t) :
    KeepsEnvironment s t := by
  obtain ⟨hp, hs, hd⟩ := h
  exact ⟨by simpa using hp, by simpa using hs, by simpa using hd⟩

/-- A step that answers next keeps the environment of the machine whose schedule is already past this step. -/
theorem step_keepsEnvironment (s t : State) (h : step s = .next t) :
    KeepsEnvironment { s with schedule := s.schedule.tail } t := by
  obtain ⟨hs, rfl⟩ | ⟨x, rest, hs, -, ⟨-, rfl⟩ | ⟨-, hc⟩⟩ := step_cases s t h
  · exact ⟨rfl, by simp [hs], id⟩
  · rw [hs]
    exact observeTaps_idle_keepsEnvironment _ x.tapRead
  · rw [hs]
    exact keepsEnvironment_of_observeTaps _ t x.tapRead (runCommand_keepsEnvironment _ _ _ t hc)

/-- The gate of the time before reset adds a refusal, never a fault. -/
theorem afterReset_next_ne_fault (s t : State) (f : Fault) : afterReset s (.next t) ≠ .fault f := by
  cases hd : s.resetDone with
  | false => rw [afterReset_refused s _ hd]; nofun
  | true => rw [afterReset_next s _ hd]; nofun

theorem exec_ne_fault (i : Instr) (s : State) (f : Fault) : exec i s ≠ .fault f := by
  obtain rfl | ⟨-, d, e⟩ | ⟨-, u, e⟩ | ⟨rfl, -, e⟩ | ⟨code, rfl, -, e⟩ := exec_shape i s
  · rw [exec_reset]; nofun
  all_goals rw [e]; exact afterReset_next_ne_fault s _ f

theorem runCommand_ne_fault (op : OpCode) (w : Word) (s : State) (f : Fault) : runCommand op w s ≠ .fault f := by
  obtain ⟨i, -, hi⟩ | ⟨-, hr⟩ := runCommand_cases op w s
  · rw [hi]; exact exec_ne_fault i s f
  · rw [hr]; exact afterReset_next_ne_fault s _ f

theorem runClientStep_ne_fault (x : ClientStep) (s : State) (f : Fault) : runClientStep x s ≠ .fault f := by
  cases hc : x.client with
  | second => rw [runClientStep_second x s hc]; nofun
  | owner =>
    cases hv : x.cmdValid with
    | false => rw [runClientStep_noCommand x s hc hv]; nofun
    | true => rw [runClientStep_command x s hc hv]; exact runCommand_ne_fault _ _ _ f

theorem step_ne_fault (s : State) (f : Fault) : step s ≠ .fault f := by
  cases hs : s.schedule with
  | nil => rw [step_nil s hs]; nofun
  | cons x rest => rw [step_cons s x rest hs]; exact runClientStep_ne_fault x _ f

/-- Settles O54: `step_cases` gives the frame, one case per way a step answers next, and no branch of a step is the
fault outcome. -/
theorem stepFrameOfTheEnvironment : Obligations.StepFrameOfTheEnvironment := by
  unfold Obligations.StepFrameOfTheEnvironment
  refine ⟨fun s t h => ?_, step_ne_fault⟩
  obtain ⟨hpolicy, hschedule, hresetDone⟩ := step_keepsEnvironment s t h
  exact ⟨hpolicy, hschedule, hresetDone⟩

end Sys2Proof.Machine
end

section
/-! RESET's word (spec/10_state.md R25), and the reserved bits along every step and run (R14): `PSR` changes through
`State.writePsr` only, and what that stores is wired. -/

namespace Sys2Proof.Machine

/-- The reset word sets no reserved bit, so RESET stores it as it is (R15, R25). -/
@[simp] theorem wired_resetWord : wired resetWord = resetWord := by decide

/-- The word RESET leaves, whatever the state was (R25, R55). -/
theorem exec_reset_psr (s : State) : ∃ t, exec .reset s = .next t ∧ t.psr = resetWord :=
  ⟨_, exec_reset s, wired_resetWord⟩

/-- Settles O1: the word is `resetWord` after RESET from any state, and its fields are read off it. -/
theorem resetLeavesTheResetFields : Obligations.ResetLeavesTheResetFields := by
  unfold Obligations.ResetLeavesTheResetFields
  refine ⟨rfl, fun s => ?_⟩
  obtain ⟨t, ht, word⟩ := exec_reset_psr s
  refine ⟨t, ht, ?_⟩
  rw [word]
  decide

theorem launch_reservedZero (p : ModeWritePolicy) : (State.launch p).ReservedZero := by
  change resetWord &&& 0x0FFFFF00#32 = 0#32
  rw [← wired_resetWord]
  exact wired_and_reserved resetWord

/-- Settles O33: the reset state is the launch state of the default policy. -/
theorem reservedBitsZeroAtReset : Obligations.ReservedBitsZeroAtReset := by
  unfold Obligations.ReservedBitsZeroAtReset
  exact launch_reservedZero Config.defaultModeWritePolicy

/-- Whatever word is written, the reserved bits are clear afterwards (R14). -/
theorem writePsr_reservedZero (s : State) (w : Word) : (s.writePsr w).ReservedZero := wired_and_reserved w

theorem observeTaps_reservedZero (s : State) (r : TapRead) (hs : s.ReservedZero) : (s.observeTaps r).ReservedZero := by
  rw [State.ReservedZero, observeTaps_psr]
  exact hs

theorem exec_keepsReservedZero (i : Instr) (s t : State) (hs : s.ReservedZero) (h : exec i s = .next t) :
    t.ReservedZero := by
  obtain ⟨-, rfl⟩ | ⟨-, ⟨-, data, rfl⟩ | ⟨-, w, rfl⟩ | ⟨-, -, rfl⟩ | ⟨code, -, -, rfl⟩⟩ := exec_cases i s t h
  · exact writePsr_reservedZero { s with resetDone := true } resetWord
  · exact hs
  · exact writePsr_reservedZero s w
  · exact hs
  · exact hs

theorem runCommand_keepsReservedZero (op : OpCode) (w : Word) (s t : State) (hs : s.ReservedZero)
    (h : runCommand op w s = .next t) : t.ReservedZero := by
  obtain ⟨i, -, hi⟩ | ⟨-, hr⟩ := runCommand_cases op w s
  · exact exec_keepsReservedZero i s t hs (hi ▸ h)
  · obtain ⟨-, rfl⟩ := raiseCommand_inv _ s t (hr ▸ h)
    exact hs

theorem step_keepsReservedZero (s t : State) (hs : s.ReservedZero) (h : step s = .next t) : t.ReservedZero := by
  obtain ⟨-, rfl⟩ | ⟨x, rest, -, -, ⟨-, rfl⟩ | ⟨-, hc⟩⟩ := step_cases s t h
  · exact hs
  · exact observeTaps_reservedZero { s with schedule := rest } x.tapRead hs
  · exact runCommand_keepsReservedZero _ _ _ t (observeTaps_reservedZero { s with schedule := rest } x.tapRead hs) hc

/-- What every step keeps, every run keeps. -/
theorem core_run_keeps (P : State → Prop) (keeps : ∀ s t, P s → step s = .next t → P t) (n : Nat) :
    ∀ s t, P s → core.run n s = .next t → P t := by
  induction n with
  | zero =>
    intro s t hs h
    cases h
    exact hs
  | succ n ih =>
    intro s t hs h
    obtain ⟨u, hu, hr⟩ := core_run_inv n s t h
    exact ih u t (keeps s u hs hu) hr

/-- The operand mask of SET discards what a client puts in the reserved bits (R14, R57). -/
theorem or_reserved_and_keepMask (v : Word) : (v ||| 0x0FFFFF00#32) &&& keepMask = v &&& keepMask := by
  have disjoint : 0x0FFFFF00#32 &&& keepMask = 0#32 := by decide
  rw [BitVec.and_comm, BitVec.and_or_distrib_left, BitVec.and_comm keepMask 0x0FFFFF00#32, disjoint,
    BitVec.or_zero, BitVec.and_comm]

theorem exec_set (v : Word) (s : State) : exec (.set v) s = writeCommand (fun _ => v &&& keepMask) s := rfl

theorem exec_set_or_reserved (v : Word) (s : State) : exec (.set (v ||| 0x0FFFFF00#32)) s = exec (.set v) s := by
  rw [exec_set, exec_set, or_reserved_and_keepMask]

/-- Settles O32: the launch state has the reserved bits clear and every step keeps them so, hence every run; SET drops
them from its operand before it stores it. -/
theorem reservedBitsStayZero : Obligations.ReservedBitsStayZero := by
  unfold Obligations.ReservedBitsStayZero
  refine ⟨step_keepsReservedZero, fun n p client t h => ?_, fun s v hd => ?_⟩
  · exact core_run_keeps State.ReservedZero step_keepsReservedZero n { State.launch p with schedule := client } t
      (launch_reservedZero p) h
  · have hset := writeCommand_next (fun _ => v &&& keepMask) s hd
    exact ⟨_, (exec_set_or_reserved v s).trans hset, hset, rfl, rfl, writePsr_reservedZero s _⟩

end Sys2Proof.Machine
end

section
/-! No response latch and no sticky error bit (spec/10_state.md R28): a step overwrites the response it finds, and
appends to the fault log without reading it. -/

namespace Sys2Proof.Machine

open Sys2Proof.Stated

/-- The state with another response on the port. -/
def State.withRsp (a : Response) (s : State) : State := { s with rsp := a }

/-- A tap read neither reads nor writes the response. -/
theorem observeTaps_withRsp (s : State) (a : Response) (r : TapRead) :
    (s.withRsp a).observeTaps r = (s.observeTaps r).withRsp a := by
  cases hd : s.resetDone with
  | false =>
    by_cases hr : r = .none
    · rw [hr]; rfl
    · rw [observeTaps_beforeReset s r hd hr, observeTaps_beforeReset (s.withRsp a) r hd hr]; rfl
  | true =>
    cases r with
    | none => rfl
    | raw => rw [observeTaps_raw s hd, observeTaps_raw (s.withRsp a) hd]
    | typedMode =>
      cases hm : modeDecode (modeField s.readPsr) with
      | some m => rw [observeTaps_typed_legal s m hd hm, observeTaps_typed_legal (s.withRsp a) m hd hm]
      | none => rw [observeTaps_typed_illegal s hd hm, observeTaps_typed_illegal (s.withRsp a) hd hm]; rfl

/-- Every command overwrites the response of the step before. The two mode accessors first decide, from what is not
the response, whether they raise; each other command has one shape. -/
theorem exec_withRsp (i : Instr) (s : State) (a : Response) : exec i (s.withRsp a) = exec i s := by
  cases i with
  | getMode =>
    cases hm : modeDecode (modeField s.readPsr) with
    | none => rw [exec_getMode_illegal s hm, exec_getMode_illegal (s.withRsp a) hm]; rfl
    | some m => rw [exec_getMode_legal s m hm, exec_getMode_legal (s.withRsp a) m hm]; rfl
  | setMode code =>
    cases hm : modeDecode code with
    | none => rw [exec_setMode_illegal s code hm, exec_setMode_illegal _ code hm]; rfl
    | some m => rw [exec_setMode_legal s code m hm, exec_setMode_legal _ code m hm]; rfl
  | _ => rfl

theorem runCommand_withRsp (op : OpCode) (w : Word) (s : State) (a : Response) :
    runCommand op w (s.withRsp a) = runCommand op w s := by
  cases hd : decodeCommand op w with
  | ok i => rw [runCommand_ok op w i _ hd, runCommand_ok op w i _ hd, exec_withRsp]
  | error e =>
    obtain ⟨rfl, -⟩ := decodeCommand_error op w e hd
    rw [runCommand_reserved op w _ hd, runCommand_reserved op w _ hd]
    rfl

theorem runClientStep_withRsp (x : ClientStep) (s : State) (a : Response) :
    runClientStep x (s.withRsp a) = runClientStep x s := by
  cases hc : x.client with
  | second => rw [runClientStep_second x _ hc, runClientStep_second x _ hc]
  | owner =>
    cases hv : x.cmdValid with
    | false =>
      rw [runClientStep_noCommand x _ hc hv, runClientStep_noCommand x _ hc hv, observeTaps_withRsp]
      rfl
    | true =>
      rw [runClientStep_command x _ hc hv, runClientStep_command x _ hc hv, observeTaps_withRsp, runCommand_withRsp]

theorem step_withRsp (s : State) (a : Response) : step (s.withRsp a) = step s := by
  cases hs : s.schedule with
  | nil => rw [step_nil s hs, step_nil (s.withRsp a) hs]; rfl
  | cons x rest =>
    rw [step_cons s x rest hs, step_cons (s.withRsp a) x rest hs]
    exact runClientStep_withRsp x { s with schedule := rest } a

/-- The state with another fault log. -/
def State.withLog (l : List Fault) (s : State) : State := { s with faultLog := l }

/-- The state without its fault log. -/
def State.forgetLog (s : State) : State := s.withLog []

/-- From these two states a run answers the same but for the fault log. -/
abbrev SameButLog (run : State → Result) (s s' : State) : Prop :=
  mapNext State.forgetLog (run s) = mapNext State.forgetLog (run s')

/-- What only appends to the log does everything else alike from any two logs. -/
theorem AppendsToLog.sameButLog {run : State → Result} {s : State} (h : AppendsToLog run s) (l l' : List Fault) :
    SameButLog run (s.withLog l) (s.withLog l') := by
  obtain ⟨t, added, -, hr⟩ := h
  have answer (log : List Fault) : run (s.withLog log) = .next (t.withLog (log ++ added)) := hr log
  rw [SameButLog, answer, answer]
  rfl

theorem exec_sameButLog (i : Instr) (s : State) (l l' : List Fault) :
    SameButLog (exec i) (s.withLog l) (s.withLog l') := by
  cases hd : s.resetDone with
  | true => exact (exec_appendsToLog i s hd).sameButLog l l'
  | false =>
    by_cases hi : i = .reset
    · rw [hi]; rfl
    · rw [SameButLog, exec_beforeReset i (s.withLog l) hi hd, exec_beforeReset i (s.withLog l') hi hd]

theorem raiseCommand_sameButLog (e : CommandError) (s : State) (l l' : List Fault) :
    SameButLog (raiseCommand e) (s.withLog l) (s.withLog l') := by
  cases hd : s.resetDone with
  | true => exact (raiseCommand_appendsToLog e s hd).sameButLog l l'
  | false =>
    rw [SameButLog, raiseCommand, raiseCommand, afterReset_refused (s.withLog l) _ hd,
      afterReset_refused (s.withLog l') _ hd]

theorem runCommand_sameButLog (op : OpCode) (w : Word) (s : State) (l l' : List Fault) :
    SameButLog (runCommand op w) (s.withLog l) (s.withLog l') := by
  cases hd : decodeCommand op w with
  | ok i =>
    rw [SameButLog, runCommand_ok op w i _ hd, runCommand_ok op w i _ hd]
    exact exec_sameButLog i s l l'
  | error e =>
    obtain ⟨rfl, -⟩ := decodeCommand_error op w e hd
    rw [SameButLog, runCommand_reserved op w _ hd, runCommand_reserved op w _ hd]
    exact raiseCommand_sameButLog _ s l l'

/-- The tap read of the step adds to the log too, so the command starts from two states that again differ in the log
only. -/
theorem runClientStep_sameButLog (x : ClientStep) (s : State) (l l' : List Fault) :
    SameButLog (runClientStep x) (s.withLog l) (s.withLog l') := by
  cases hc : x.client with
  | second => rw [SameButLog, runClientStep_second x _ hc, runClientStep_second x _ hc]
  | owner =>
    obtain ⟨a, -, ha⟩ := observeTaps_eq (s.withLog l) x.tapRead
    obtain ⟨a', -, ha'⟩ := observeTaps_eq (s.withLog l') x.tapRead
    cases hv : x.cmdValid with
    | false =>
      rw [SameButLog, runClientStep_noCommand x _ hc hv, runClientStep_noCommand x _ hc hv, ha, ha']
      rfl
    | true =>
      rw [SameButLog, runClientStep_command x _ hc hv, runClientStep_command x _ hc hv, ha, ha']
      exact runCommand_sameButLog x.cmdOp x.cmdWdata s (l ++ a) (l' ++ a')

theorem step_sameButLog (s : State) (l : List Fault) : SameButLog step (s.withLog l) s := by
  cases hs : s.schedule with
  | nil => rw [SameButLog, step_nil s hs, step_nil (s.withLog l) hs]; rfl
  | cons x rest =>
    rw [SameButLog, step_cons s x rest hs, step_cons (s.withLog l) x rest hs]
    exact runClientStep_sameButLog x { s with schedule := rest } l s.faultLog

/-- Settles O47: from the port down to each command, the response found is overwritten unread and the log is only
appended to. -/
theorem responseAndLogAreNotState : Obligations.ResponseAndLogAreNotState := by
  unfold Obligations.ResponseAndLogAreNotState
  exact ⟨step_withRsp, step_sameButLog⟩

end Sys2Proof.Machine
end

section
/-! The mode gates no other field (spec/10_state.md R29): reading or writing bits above the mode field commutes with
putting another code into it, and every command but the ones about the whole word or the mode does only that. -/

namespace Sys2Proof.Machine

open Sys2Proof.Stated

/-- The statement's `withModeField` is the model's write under `Replace`. -/
theorem getLsbD_withModeField (w : Word) (code : ModeCode) (j : Nat) :
    (withModeField w code).getLsbD j = if j < 5 then code.getLsbD j else w.getLsbD j :=
  getLsbD_writeModeField_replace code w j

theorem wired_withModeField (w : Word) (code : ModeCode) :
    wired (withModeField w code) = withModeField (wired w) code := by
  apply BitVec.eq_of_getLsbD_eq
  intro j _
  simp only [getLsbD_wired, getLsbD_withModeField]
  split
  · have stored : j < 8 := by omega
    simp [stored]
  · rfl

theorem readBit_withModeField (w : Word) (code : ModeCode) (k : Nat) (hk : 5 ≤ k) :
    readBit (withModeField w code) k = readBit w k := by
  rw [readBit, getLsbD_withModeField, if_neg (by omega), readBit]

theorem extractFlags_withModeField (w : Word) (code : ModeCode) :
    extractFlags (withModeField w code) = extractFlags w := by
  apply BitVec.eq_of_getLsbD_eq
  intro j _
  simp only [extractFlags, BitVec.getLsbD_extractLsb', getLsbD_withModeField]
  rw [if_neg (by omega)]

theorem insertBit_withModeField (k : Nat) (b : Bool) (w : Word) (code : ModeCode) (h5 : 5 ≤ k) (hk : k < 32) :
    insertBit k b (withModeField w code) = withModeField (insertBit k b w) code := by
  apply BitVec.eq_of_getLsbD_eq
  intro j _
  simp only [getLsbD_insertBit _ _ _ _ hk, getLsbD_withModeField]
  by_cases hj : j < 5
  · rw [if_neg (by omega), if_pos hj, if_pos hj]
  · rw [if_neg hj, if_neg hj]

theorem packFlags_withModeField (f : Nzcv) (w : Word) (code : ModeCode) :
    packFlags f (withModeField w code) = withModeField (packFlags f w) code := by
  apply BitVec.eq_of_getLsbD_eq
  intro j _
  simp only [getLsbD_packFlags, getLsbD_withModeField]
  by_cases hj : j < 5
  · rw [if_neg (by omega), if_pos hj, if_pos hj]
  · rw [if_neg hj, if_neg hj]

/-- The state with another code in its mode field. -/
def State.withMode (code : ModeCode) (s : State) : State := { s with psr := withModeField s.psr code }

theorem readPsr_withMode (code : ModeCode) (s : State) :
    (s.withMode code).readPsr = withModeField s.readPsr code := wired_withModeField s.psr code

/-- The gate of the time before reset lets a function of states through. -/
theorem mapNext_afterReset (f : State → State) (s : State) (r : Result) :
    mapNext f (afterReset s r) = afterReset s (mapNext f r) := by
  cases hd : s.resetDone with
  | false => rw [afterReset_refused s r hd, afterReset_refused s _ hd]; rfl
  | true => rw [afterReset_next s r hd, afterReset_next s _ hd]

/-- In this state, running the command commutes with putting the code into the mode field. -/
abbrev CommutesWithMode (run : State → Result) (code : ModeCode) (s : State) : Prop :=
  run (s.withMode code) = mapNext (State.withMode code) (run s)

section
variable (code : ModeCode) (s : State)

theorem readCommand_commutesWithMode (d : Word → Word) (hd : ∀ w, d (withModeField w code) = d w) :
    CommutesWithMode (readCommand d) code s := by
  rw [CommutesWithMode, readCommand, readCommand, mapNext_afterReset, readPsr_withMode, hd]
  rfl

theorem writeCommand_commutesWithMode (u : Word → Word)
    (hu : ∀ w, u (withModeField w code) = withModeField (u w) code) :
    CommutesWithMode (writeCommand u) code s := by
  have stored : (s.withMode code).writePsr (u (s.withMode code).readPsr) =
      (s.writePsr (u s.readPsr)).withMode code := by
    rw [readPsr_withMode, hu, State.writePsr, wired_withModeField]
    rfl
  rw [CommutesWithMode, writeCommand, writeCommand, mapNext_afterReset, stored]
  rfl

theorem readBitCommand_commutesWithMode (k : Nat) (hk : 5 ≤ k) :
    CommutesWithMode (readCommand fun psr => zextBit (readBit psr k)) code s :=
  readCommand_commutesWithMode code s _ fun w => congrArg zextBit (readBit_withModeField w code k hk)

theorem insertBitCommand_commutesWithMode (k : Nat) (b : Bool) (h5 : 5 ≤ k) (hk : k < 32) :
    CommutesWithMode (writeCommand (insertBit k b)) code s :=
  writeCommand_commutesWithMode code s _ fun w => insertBit_withModeField k b w code h5 hk

end

/-- Settles O53: each command the statement is about reads or writes one bit, or the flags, above the mode field. -/
theorem modeDoesNotGateOtherFields : Obligations.ModeDoesNotGateOtherFields := by
  unfold Obligations.ModeDoesNotGateOtherFields
  intro i s code hreset hset hget hgetMode hsetMode
  cases i with
  | reset => exact absurd rfl hreset
  | set v => exact absurd rfl (hset v)
  | get => exact absurd rfl hget
  | getMode => exact absurd rfl hgetMode
  | setMode c => exact absurd rfl (hsetMode c)
  | nop => exact readCommand_commutesWithMode code s (fun _ => 0x00000000#32) fun _ => rfl
  | getState => exact readBitCommand_commutesWithMode code s bitT (by decide)
  | getFiqDis => exact readBitCommand_commutesWithMode code s bitF (by decide)
  | getIrqDis => exact readBitCommand_commutesWithMode code s bitI (by decide)
  | getV => exact readBitCommand_commutesWithMode code s bitV (by decide)
  | getC => exact readBitCommand_commutesWithMode code s bitC (by decide)
  | getZ => exact readBitCommand_commutesWithMode code s bitZ (by decide)
  | getN => exact readBitCommand_commutesWithMode code s bitN (by decide)
  | getFlags =>
    exact readCommand_commutesWithMode code s (fun psr => (extractFlags psr).setWidth 32)
      fun w => congrArg (·.setWidth 32) (extractFlags_withModeField w code)
  | setState x => exact insertBitCommand_commutesWithMode code s bitT (boolOfState x) (by decide) (by decide)
  | setFiqDis b => exact insertBitCommand_commutesWithMode code s bitF b (by decide) (by decide)
  | setIrqDis b => exact insertBitCommand_commutesWithMode code s bitI b (by decide) (by decide)
  | setV b => exact insertBitCommand_commutesWithMode code s bitV b (by decide) (by decide)
  | setC b => exact insertBitCommand_commutesWithMode code s bitC b (by decide) (by decide)
  | setZ b => exact insertBitCommand_commutesWithMode code s bitZ b (by decide) (by decide)
  | setN b => exact insertBitCommand_commutesWithMode code s bitN b (by decide) (by decide)
  | setFlags f =>
    exact writeCommand_commutesWithMode code s (packFlags f) fun w => packFlags_withModeField f w code

end Sys2Proof.Machine
end

section
/-! Read commands (spec/20_memory.md R34): all a read command changes is the response and, for a raise, the fault log.
A command reads neither of the two (R28), so it answers after any reads as it did before them. -/

namespace Sys2Proof.Machine

open Sys2Proof.Stated

/-- `t` is `s` but for its response and its fault log. -/
abbrev SameButRspAndLog (s t : State) : Prop := t = (s.withRsp t.rsp).withLog t.faultLog

theorem SameButRspAndLog.psr_eq {s t : State} (h : SameButRspAndLog s t) : t.psr = s.psr :=
  (congrArg State.psr h :)

theorem SameButRspAndLog.trans {s t u : State} (hst : SameButRspAndLog s t) (htu : SameButRspAndLog t u) :
    SameButRspAndLog s u := by
  rw [SameButRspAndLog, hst] at htu
  exact htu

/-- The commands of R34's list are none of the write class of R43. -/
theorem writes_of_mem_readCommands : ∀ i ∈ readCommands, i.writes = false := by decide

theorem exec_read_sameButRspAndLog (i : Instr) (s t : State) (hi : i.writes = false) (h : exec i s = .next t) :
    SameButRspAndLog s t := by
  obtain ⟨rfl, -⟩ | ⟨-, ⟨-, data, rfl⟩ | ⟨hw, -⟩ | ⟨-, -, rfl⟩ | ⟨code, rfl, -⟩⟩ := exec_cases i s t h
  · cases hi
  · rfl
  · rw [hi] at hw; cases hw
  · rfl
  · cases hi

/-- A program that answers next answered next with its first command. -/
theorem runAll_cons_inv (i : Instr) (rest : List Instr) (s u : State) (h : runAll (i :: rest) s = .next u) :
    ∃ t, exec i s = .next t ∧ runAll rest t = .next u := by
  rw [runAll] at h
  split at h
  · exact ⟨_, ‹_›, h⟩
  · cases h
  · cases h

theorem runAll_reads_sameButRspAndLog (reads : List Instr) (hreads : ∀ j ∈ reads, j.writes = false) :
    ∀ s u, runAll reads s = .next u → SameButRspAndLog s u := by
  induction reads with
  | nil =>
    intro s u h
    cases h
    rfl
  | cons i rest ih =>
    intro s u h
    obtain ⟨hi, hrest⟩ := List.forall_mem_cons.mp hreads
    obtain ⟨t, ht, hu⟩ := runAll_cons_inv i rest s u h
    exact (exec_read_sameButRspAndLog i s t hi ht).trans (ih hrest t u hu)

theorem mapNext_inv (f : State → State) (r : Result) (x : State) (h : mapNext f r = .next x) :
    ∃ v, r = .next v ∧ f v = x := by
  cases r with
  | next v => exact ⟨v, rfl, Host.Outcome.next.inj h⟩
  | fault f => cases h
  | refused r => cases h

/-- Every command answers alike from two states that differ in response and log only (R28). -/
theorem exec_of_sameButRspAndLog (i : Instr) (s t u : State) (hu : SameButRspAndLog s u) (h : exec i s = .next t) :
    ∃ v, exec i u = .next v ∧ v.forgetLog = t.forgetLog := by
  have unread : exec i u = exec i (s.withLog u.faultLog) := by
    rw [hu]
    exact exec_withRsp i (s.withLog u.faultLog) u.rsp
  have answer : mapNext State.forgetLog (exec i u) = mapNext State.forgetLog (exec i s) := by
    rw [unread]
    exact exec_sameButLog i s u.faultLog s.faultLog
  rw [h] at answer
  exact mapNext_inv State.forgetLog _ _ answer

/-- Settles O26: reads in between change response and log only, and the repeated command depends on neither. -/
theorem readCommandsHaveNoSideEffect : Obligations.ReadCommandsHaveNoSideEffect := by
  unfold Obligations.ReadCommandsHaveNoSideEffect
  refine ⟨fun i s hi hd => ?_, fun i between s t u hi hbetween ht hu => ?_⟩
  · obtain ⟨t, ht⟩ := exec_completes i s hd
    exact ⟨t, ht, (exec_read_sameButRspAndLog i s t (writes_of_mem_readCommands i hi) ht).psr_eq⟩
  · have once := exec_read_sameButRspAndLog i s t (writes_of_mem_readCommands i hi) ht
    have reads := runAll_reads_sameButRspAndLog between
      (fun j hj => writes_of_mem_readCommands j (hbetween j hj)) t u hu
    obtain ⟨v, hv, same⟩ := exec_of_sameButRspAndLog i s t u (once.trans reads) ht
    have rsp : v.forgetLog.rsp = t.forgetLog.rsp := congrArg State.rsp same
    have psr : v.forgetLog.psr = t.forgetLog.psr := congrArg State.psr same
    exact ⟨v, hv, rsp, psr.trans once.psr_eq⟩

end Sys2Proof.Machine
end

section
/-! The frame of the field writes (spec/20_memory.md R35): each command's word update leaves the bits outside its
field, and wiring the result (R15) does not touch what a read already showed. -/

namespace Sys2Proof.Machine

open Sys2Proof.Stated

/-- The words agree on every bit outside the field of this least bit and width. -/
def AgreeOutside (lo width : Nat) (w w' : Word) : Prop :=
  ∀ j, ¬(lo ≤ j ∧ j < lo + width) → w'.getLsbD j = w.getLsbD j

theorem insertBit_agreeOutside (k : Nat) (b : Bool) (w : Word) (hk : k < 32) :
    AgreeOutside k 1 w (insertBit k b w) := by
  intro j hj
  rw [getLsbD_insertBit k b w j hk, if_neg (by omega)]

theorem packFlags_agreeOutside (f : Nzcv) (w : Word) : AgreeOutside 28 4 w (packFlags f w) := by
  intro j hj
  rw [getLsbD_packFlags, if_neg hj]

/-- Under either policy SET_MODE's update stays in bits 4:0, since the code has no bit above them (R63). -/
theorem writeModeField_agreeOutside (p : ModeWritePolicy) (code : ModeCode) (w : Word) :
    AgreeOutside 0 5 w (writeModeField p code w) := by
  intro j hj
  have above : 5 ≤ j := by omega
  cases p with
  | replace => rw [getLsbD_writeModeField_replace, if_neg (by omega)]
  | orMerge => rw [getLsbD_writeModeField_orMerge, BitVec.getLsbD_of_ge code j above, Bool.or_false]

theorem AgreeOutside.wired {lo width : Nat} {w w' : Word} (h : AgreeOutside lo width w w') :
    AgreeOutside lo width (wired w) (wired w') := by
  intro j hj
  rw [getLsbD_wired, getLsbD_wired, h j hj]

theorem writeCommand_readPsr (u : Word → Word) (s t : State) (h : writeCommand u s = .next t) :
    t.readPsr = wired (u s.readPsr) := by
  obtain ⟨-, rfl⟩ := writeCommand_inv u s t h
  rw [readPsr_respond, readPsr_writePsr]

/-- A write command's frame is that of its word update. -/
theorem writeCommand_agreeOutside (u : Word → Word) (s t : State) (lo width : Nat)
    (hu : AgreeOutside lo width s.readPsr (u s.readPsr)) (h : writeCommand u s = .next t) :
    AgreeOutside lo width s.readPsr t.readPsr := by
  rw [writeCommand_readPsr u s t h]
  have stored := hu.wired
  rwa [wired_readPsr] at stored

theorem insertBitCommand_agreeOutside (k : Nat) (b : Bool) (s t : State) (hk : k < 32)
    (h : writeCommand (insertBit k b) s = .next t) : AgreeOutside k 1 s.readPsr t.readPsr :=
  writeCommand_agreeOutside _ s t k 1 (insertBit_agreeOutside k b s.readPsr hk) h

/-- What `PSR` reads as after SET_MODE: a raise leaves it, a legal code is written as the policy says (R63). -/
theorem exec_setMode_readPsr (code : ModeCode) (s t : State) (h : exec (.setMode code) s = .next t) :
    t.readPsr = s.readPsr ∨ t.readPsr = writeModeField s.policy code s.readPsr := by
  cases hm : modeDecode code with
  | none =>
    rw [exec_setMode_illegal s code hm] at h
    obtain ⟨-, rfl⟩ := raiseCommand_inv _ s t h
    exact .inl (readPsr_raise s _)
  | some m =>
    rw [exec_setMode_legal s code m hm] at h
    rw [writeCommand_readPsr _ s t h]
    exact .inr (wired_writeModeField s.policy code s.psr)

theorem exec_setMode_agreeOutside (code : ModeCode) (s t : State) (h : exec (.setMode code) s = .next t) :
    AgreeOutside 0 5 s.readPsr t.readPsr := by
  obtain same | written := exec_setMode_readPsr code s t h
  · rw [same]
    exact fun _ _ => rfl
  · rw [written]
    exact writeModeField_agreeOutside s.policy code s.readPsr

theorem exec_setMode_orMerge_keepsSetBits (code : ModeCode) (s t : State) (j : Nat) (hp : s.policy = .orMerge)
    (h : exec (.setMode code) s = .next t) (hj : s.readPsr.getLsbD j = true) : t.readPsr.getLsbD j = true := by
  obtain same | written := exec_setMode_readPsr code s t h
  · rw [same, hj]
  · rw [written, hp, getLsbD_writeModeField_orMerge, hj, Bool.true_or]

/-- The bits of `PSR` a field write command leaves, by the field of the statement's table. -/
theorem exec_agreeOutside_writtenField (i : Instr) (s t : State) (lo width : Nat)
    (hfield : writtenField i = some (lo, width)) (h : exec i s = .next t) :
    AgreeOutside lo width s.readPsr t.readPsr := by
  cases i with
  | setMode code => cases hfield; exact exec_setMode_agreeOutside code s t h
  | setState x => cases hfield; exact insertBitCommand_agreeOutside bitT (boolOfState x) s t (by decide) h
  | setFiqDis b => cases hfield; exact insertBitCommand_agreeOutside bitF b s t (by decide) h
  | setIrqDis b => cases hfield; exact insertBitCommand_agreeOutside bitI b s t (by decide) h
  | setV b => cases hfield; exact insertBitCommand_agreeOutside bitV b s t (by decide) h
  | setC b => cases hfield; exact insertBitCommand_agreeOutside bitC b s t (by decide) h
  | setZ b => cases hfield; exact insertBitCommand_agreeOutside bitZ b s t (by decide) h
  | setN b => cases hfield; exact insertBitCommand_agreeOutside bitN b s t (by decide) h
  | setFlags f =>
    cases hfield
    exact writeCommand_agreeOutside (packFlags f) s t 28 4 (packFlags_agreeOutside f s.readPsr) h
  | _ => cases hfield

/-- RESET apart, a command that answers next found the machine after reset and leaves it there (R95). -/
theorem exec_keepsResetDone (i : Instr) (s t : State) (hi : i ≠ .reset) (h : exec i s = .next t) :
    t.resetDone = s.resetDone := by
  have done : s.resetDone = true := by
    by_contra hd
    rw [exec_beforeReset i s hi (Bool.eq_false_iff.mpr hd)] at h
    cases h
  rw [done, (exec_keepsEnvironment i s t h).resetDone done]

/-- Only a raise records a fault, and a raise never answers OK (R82). -/
theorem exec_ok_keepsLog (i : Instr) (s t : State) (h : exec i s = .next t) (hok : t.rsp.err = .ok) :
    t.faultLog = s.faultLog := by
  obtain ⟨-, rfl⟩ | ⟨-, ⟨-, data, rfl⟩ | ⟨-, w, rfl⟩ | ⟨-, -, rfl⟩ | ⟨code, -, -, rfl⟩⟩ := exec_cases i s t h
  · rfl
  · rfl
  · rfl
  · cases hok
  · cases hok

/-- Settles O27: the bits by the command's field, the rest by the frame every command has. -/
theorem fieldWritesTouchOnlyTheirField : Obligations.FieldWritesTouchOnlyTheirField := by
  unfold Obligations.FieldWritesTouchOnlyTheirField
  intro i s t lo width hfield h
  have notReset : i ≠ .reset := by
    rintro rfl
    cases hfield
  obtain ⟨policy, schedule, -⟩ := exec_keepsEnvironment i s t h
  refine ⟨fun j _ hj => exec_agreeOutside_writtenField i s t lo width hfield h j hj, ?_,
    exec_keepsResetDone i s t notReset h, policy, schedule, exec_ok_keepsLog i s t h⟩
  rintro code j rfl hp hj
  exact exec_setMode_orMerge_keepsSetBits code s t j hp h hj

end Sys2Proof.Machine
end

section
/-! Commands take effect in the order issued, one per step (spec/20_memory.md R36): a step that faces an encoded
command is that command's `exec`, and no command reads the schedule that is left. -/

namespace Sys2Proof.Machine

open Sys2Proof.Stated

/-- The decoder reads back the op code and the operand the encoder places (R41 to R43). -/
theorem decodeCommand_opCode_operandBits (i : Instr) : decodeCommand (opCode i) (operandBits i) = .ok i := by
  cases i with
  | setState x => exact congrArg (Except.ok <| Instr.setState ·) (stateOperand_zextBit x)
  | setMode code => exact congrArg (Except.ok <| Instr.setMode ·) (modeOperand_setWidth code)
  | setIrqDis b => exact congrArg (Except.ok <| Instr.setIrqDis ·) (boolOperand_zextBit b)
  | setFiqDis b => exact congrArg (Except.ok <| Instr.setFiqDis ·) (boolOperand_zextBit b)
  | setN b => exact congrArg (Except.ok <| Instr.setN ·) (boolOperand_zextBit b)
  | setZ b => exact congrArg (Except.ok <| Instr.setZ ·) (boolOperand_zextBit b)
  | setC b => exact congrArg (Except.ok <| Instr.setC ·) (boolOperand_zextBit b)
  | setV b => exact congrArg (Except.ok <| Instr.setV ·) (boolOperand_zextBit b)
  | setFlags f => exact congrArg (Except.ok <| Instr.setFlags ·) (flagsOperand_setWidth f)
  | _ => rfl

/-- The state with another schedule. -/
def State.withSchedule (l : List ClientStep) (s : State) : State := { s with schedule := l }

/-- The gate of the time before reset does not read the schedule. -/
theorem afterReset_withSchedule (s : State) (r r' : Result) (l : List ClientStep)
    (h : r' = mapNext (State.withSchedule l) r) :
    afterReset (s.withSchedule l) r' = mapNext (State.withSchedule l) (afterReset s r) := by
  rw [h, mapNext_afterReset]
  rfl

/-- No command reads or writes the schedule. The two mode accessors first decide, from what is not the schedule,
whether they raise; each other command has one shape. -/
theorem exec_withSchedule (i : Instr) (s : State) (l : List ClientStep) :
    exec i (s.withSchedule l) = mapNext (State.withSchedule l) (exec i s) := by
  cases i with
  | reset => rfl
  | getMode =>
    cases hm : modeDecode (modeField s.readPsr) with
    | none =>
      rw [exec_getMode_illegal s hm, exec_getMode_illegal (s.withSchedule l) hm]
      exact afterReset_withSchedule s _ _ l rfl
    | some m =>
      rw [exec_getMode_legal s m hm, exec_getMode_legal (s.withSchedule l) m hm]
      exact afterReset_withSchedule s _ _ l rfl
  | setMode code =>
    cases hm : modeDecode code with
    | none =>
      rw [exec_setMode_illegal s code hm, exec_setMode_illegal (s.withSchedule l) code hm]
      exact afterReset_withSchedule s _ _ l rfl
    | some m =>
      rw [exec_setMode_legal s code m hm, exec_setMode_legal (s.withSchedule l) code m hm]
      exact afterReset_withSchedule s _ _ l rfl
  | _ => exact afterReset_withSchedule s _ _ l rfl

/-- An encoded command on the port, without a tap read, runs its instruction's meaning. -/
theorem runClientStep_presentCommand_encode (i : Instr) (s : State) :
    runClientStep (presentCommand (encode i)) s = exec i s := by
  rw [runClientStep_command _ s rfl rfl, presentCommand, encode, cmdOp_cmdWord, cmdWdata_cmdWord]
  exact runCommand_ok _ _ i s (decodeCommand_opCode_operandBits i)

/-- The schedule that presents a program's commands, encoded, one per step. -/
def programSchedule (program : List Instr) : List ClientStep := program.map fun i => presentCommand (encode i)

theorem step_programSchedule_cons (i : Instr) (rest : List Instr) (s : State) :
    step (s.withSchedule (programSchedule (i :: rest))) =
      mapNext (State.withSchedule (programSchedule rest)) (exec i s) := by
  rw [step_cons _ (presentCommand (encode i)) (programSchedule rest) rfl, runClientStep_presentCommand_encode]
  exact exec_withSchedule i s (programSchedule rest)

/-- A run stops at a step that is refused. -/
theorem core_run_refused (n : Nat) (s : State) (r : Refusal) (h : step s = .refused r) :
    core.run (n + 1) s = .refused r := by
  have hc : core.step s = .refused r := h
  simp only [Host.Core.run, hc]

/-- The commuting square of the two runs, for each program: one step of the port beside one `exec`, both refused
together, both leaving the rest of the program. -/
theorem core_run_programSchedule (program : List Instr) :
    ∀ s, s.schedule = [] → core.run program.length (s.withSchedule (programSchedule program)) = runAll program s := by
  induction program with
  | nil =>
    intro s hs
    rw [programSchedule, List.map_nil, ← hs]
    rfl
  | cons i rest ih =>
    intro s hs
    have hstep := step_programSchedule_cons i rest s
    rw [List.length_cons, runAll]
    cases he : exec i s with
    | next t =>
      rw [he] at hstep
      rw [core_run_succ _ _ _ hstep]
      exact ih t ((exec_keepsEnvironment i s t he).schedule.trans hs)
    | fault f => exact absurd he (exec_ne_fault i s f)
    | refused r =>
      rw [he] at hstep
      exact core_run_refused _ _ r hstep

/-- Settles O52: by induction on the program, one step of the port per `exec`. -/
theorem scheduleRunsInOrder : Obligations.ScheduleRunsInOrder := by
  unfold Obligations.ScheduleRunsInOrder
  exact fun s program hs => core_run_programSchedule program s hs

end Sys2Proof.Machine
end

section
/-! The opcode map both ways (spec/30_encoding.md R41 to R44). What an instruction carries is exactly the used bits of
its command, so the encoder inverts the decoder up to ignored bits, and the ignored bits have no effect. -/

namespace Sys2Proof.Machine

open Sys2Proof.Stated

/-- Settles O28: the decoder reads back the parts the encoder places. -/
theorem decodeOfEncode : Obligations.DecodeOfEncode := by
  unfold Obligations.DecodeOfEncode
  intro i
  rw [encode, decode_cmdWord]
  exact decodeCommand_opCode_operandBits i

/-- An instruction is determined by its op code and its operand bits. -/
theorem eq_of_opCode_of_operandBits (i j : Instr) (hop : opCode i = opCode j) (hbits : operandBits i = operandBits j) :
    i = j := by
  have hi := decodeCommand_opCode_operandBits i
  rw [hop, hbits, decodeCommand_opCode_operandBits j] at hi
  exact (Except.ok.inj hi).symm

/-! The operand read from a word, placed back in a word, is the word with the other bits cleared: R42's masks. -/

theorem zextBit_boolOperand (w : Word) : zextBit (boolOperand w) = w &&& 0x00000001#32 := by
  apply BitVec.eq_of_getLsbD_eq
  intro j hj
  by_cases h0 : j = 0
  · subst h0
    simp [zextBit, boolOperand, readBit]
  · simp [zextBit, h0, BitVec.getLsbD_one]

theorem setWidth_modeOperand (w : Word) : (modeOperand w).setWidth 32 = w &&& 0x0000001F#32 := by
  apply BitVec.eq_of_getLsbD_eq
  intro j hj
  interval_cases j <;> simp [modeOperand]

theorem setWidth_flagsOperand (w : Word) : (flagsOperand w).setWidth 32 = w &&& 0x0000000F#32 := by
  apply BitVec.eq_of_getLsbD_eq
  intro j hj
  interval_cases j <;> simp [flagsOperand]

theorem boolOfState_stateOfBool (b : Bool) : boolOfState (stateOfBool b) = b := by
  cases b <;> rfl

theorem zextBit_stateOperand (w : Word) : zextBit (boolOfState (stateOperand w)) = w &&& 0x00000001#32 := by
  rw [stateOperand, boolOfState_stateOfBool, zextBit_boolOperand]

/-- The operand bits of a decoded instruction are the used bits of the write data. -/
theorem operandBits_of_decodeCommand (op : OpCode) (w : Word) (i : Instr) (h : decodeCommand op w = .ok i) :
    operandBits i = w &&& usedBits op := by
  obtain ⟨rfl, -⟩ := decodeCommand_ok op w i h
  cases i with
  | set value => cases h; exact (BitVec.and_allOnes (x := w)).symm
  | setState x => cases h; exact zextBit_stateOperand w
  | setMode code => cases h; exact setWidth_modeOperand w
  | setIrqDis b => cases h; exact zextBit_boolOperand w
  | setFiqDis b => cases h; exact zextBit_boolOperand w
  | setN b => cases h; exact zextBit_boolOperand w
  | setZ b => cases h; exact zextBit_boolOperand w
  | setC b => cases h; exact zextBit_boolOperand w
  | setV b => cases h; exact zextBit_boolOperand w
  | setFlags f => cases h; exact setWidth_flagsOperand w
  | _ => exact BitVec.and_zero.symm

/-- Settles O29: the op code is the instruction's, and its operand bits are the used ones. -/
theorem encodeOfDecode : Obligations.EncodeOfDecode := by
  unfold Obligations.EncodeOfDecode
  intro op w i h
  rw [decode_append] at h
  rw [encode, cmdWord, operandBits_of_decodeCommand op w i h, (decodeCommand_ok op w i h).1]

/-- R42's table: the op codes that use bits of the write data, and which. -/
theorem usedBits_cases (op : OpCode) :
    (op = 0b00011#5 ∧ usedBits op = 0xFFFFFFFF#32) ∨
    (op = 0b00111#5 ∧ usedBits op = 0x0000001F#32) ∨
    (op = 0b10101#5 ∧ usedBits op = 0x0000000F#32) ∨
    (op ∈ [0b00101#5, 0b01001#5, 0b01011#5, 0b01101#5, 0b01111#5, 0b10001#5, 0b10011#5] ∧
      usedBits op = 0x00000001#32) ∨
    usedBits op = 0x00000000#32 := by
  revert op
  decide

/-- Write data that agree on the bits an op code uses run alike: either they decode to one instruction, or the op
code is reserved whatever the write data. -/
theorem runCommand_of_usedBits (op : OpCode) (w w' : Word) (s : State) (h : w &&& usedBits op = w' &&& usedBits op) :
    runCommand op w s = runCommand op w' s := by
  obtain ⟨i, hi, run⟩ | ⟨reserved, run⟩ := runCommand_cases op w s <;>
    obtain ⟨i', hi', run'⟩ | ⟨reserved', run'⟩ := runCommand_cases op w' s
  · have hop : opCode i = opCode i' := (decodeCommand_ok op w i hi).1.trans (decodeCommand_ok op w' i' hi').1.symm
    have hbits : operandBits i = operandBits i' := by
      rw [operandBits_of_decodeCommand op w i hi, h, operandBits_of_decodeCommand op w' i' hi']
    rw [run, run', eq_of_opCode_of_operandBits i i' hop hbits]
  · exact absurd (decodeCommand_ok op w i hi).2 (by omega)
  · exact absurd (decodeCommand_ok op w' i' hi').2 (by omega)
  · rw [run, run']

/-- A step without a command is idle, whatever stands on the other input ports (R39). -/
theorem step_facing_noCommand (s : State) (rest : List ClientStep) (op : OpCode) (w : Word) :
    step (facing s (noCommand op w) rest) = .next (s.withSchedule rest).idle := by
  rw [step_cons _ (noCommand op w) rest rfl, runClientStep_noCommand _ _ rfl rfl]
  rfl

/-- Settles O30: agreement on R42's bits is agreement under the op code's mask; without a command the step is idle. -/
theorem ignoredBitsHaveNoEffect : Obligations.IgnoredBitsHaveNoEffect := by
  unfold Obligations.IgnoredBitsHaveNoEffect
  refine ⟨fun op w w' s hset hmode hflags hbool => runCommand_of_usedBits op w w' s ?_, fun s rest op op' w w' => ?_⟩
  · obtain ⟨hop, mask⟩ | ⟨hop, mask⟩ | ⟨hop, mask⟩ | ⟨hop, mask⟩ | mask := usedBits_cases op <;> rw [mask]
    · rw [hset hop]
    · have operand : modeOperand w = modeOperand w' := hmode hop
      rw [← setWidth_modeOperand, operand, setWidth_modeOperand]
    · have operand : flagsOperand w = flagsOperand w' := hflags hop
      rw [← setWidth_flagsOperand, operand, setWidth_flagsOperand]
    · have operand : boolOperand w = boolOperand w' := hbool hop
      rw [← zextBit_boolOperand, operand, zextBit_boolOperand]
    · rw [BitVec.and_zero, BitVec.and_zero]
  · rw [step_facing_noCommand, step_facing_noCommand]

/-- Settles O56: the seven words evaluated by the decoder. -/
theorem wordsDecodeAsTheTableSays : Obligations.WordsDecodeAsTheTableSays := by
  unfold Obligations.WordsDecodeAsTheTableSays
  decide

end Sys2Proof.Machine
end

section
/-! The write class of the opcode map (spec/30_encoding.md R41, R43): bit 0 of the op code. -/

namespace Sys2Proof.Machine

open Sys2Proof.Stated

/-- The laws of Laws/PerInstr.lean, for every instruction. -/
theorem opClass_statement (i : Instr) : Laws.OpClass.Statement i := by
  cases i with
  | nop => exact Laws.OpClass.nop
  | reset => exact Laws.OpClass.reset
  | get => exact Laws.OpClass.get
  | set v => exact Laws.OpClass.set v
  | getState => exact Laws.OpClass.getState
  | setState x => exact Laws.OpClass.setState x
  | getMode => exact Laws.OpClass.getMode
  | setMode c => exact Laws.OpClass.setMode c
  | getIrqDis => exact Laws.OpClass.getIrqDis
  | setIrqDis b => exact Laws.OpClass.setIrqDis b
  | getFiqDis => exact Laws.OpClass.getFiqDis
  | setFiqDis b => exact Laws.OpClass.setFiqDis b
  | getN => exact Laws.OpClass.getN
  | setN b => exact Laws.OpClass.setN b
  | getZ => exact Laws.OpClass.getZ
  | setZ b => exact Laws.OpClass.setZ b
  | getC => exact Laws.OpClass.getC
  | setC b => exact Laws.OpClass.setC b
  | getV => exact Laws.OpClass.getV
  | setV b => exact Laws.OpClass.setV b
  | getFlags => exact Laws.OpClass.getFlags
  | setFlags f => exact Laws.OpClass.setFlags f

theorem opCode_getLsbD_zero (i : Instr) : (opCode i).getLsbD 0 = i.writes := (opClass_statement i).2

theorem decodeCommand_getLsbD_zero (op : OpCode) (w : Word) (i : Instr) (h : decodeCommand op w = .ok i) :
    op.getLsbD 0 = i.writes := by
  rw [← (decodeCommand_ok op w i h).1, opCode_getLsbD_zero]

/-- A write command that succeeds answers data 0 (R46). -/
theorem exec_write_ok_data (i : Instr) (s t : State) (hi : i.writes = true) (h : exec i s = .next t)
    (hok : t.rsp.err = .ok) : t.rsp.data = 0x00000000#32 := by
  obtain ⟨-, rfl⟩ | ⟨-, ⟨hw, -⟩ | ⟨-, w, rfl⟩ | ⟨rfl, -⟩ | ⟨code, -, -, rfl⟩⟩ := exec_cases i s t h
  · rfl
  · rw [hi] at hw; cases hw
  · rfl
  · cases hi
  · cases hok

/-- A command with an even op code, a reserved one too, leaves `PSR` (R41, R44). -/
theorem runCommand_even_psr (op : OpCode) (w : Word) (s t : State) (h : runCommand op w s = .next t)
    (even : op.getLsbD 0 = false) : t.psr = s.psr := by
  obtain ⟨i, hi, run⟩ | ⟨-, run⟩ := runCommand_cases op w s
  · have reads : i.writes = false := (decodeCommand_getLsbD_zero op w i hi).symm.trans even
    exact (exec_read_sameButRspAndLog i s t reads (run ▸ h)).psr_eq
  · obtain ⟨-, rfl⟩ := raiseCommand_inv _ s t (run ▸ h)
    rfl

/-- A command with an odd op code that succeeds answers data 0; a reserved one does not succeed (R44, R46). -/
theorem runCommand_odd_ok_data (op : OpCode) (w : Word) (s t : State) (h : runCommand op w s = .next t)
    (odd : op.getLsbD 0 = true) (hok : t.rsp.err = .ok) : t.rsp.data = 0x00000000#32 := by
  obtain ⟨i, hi, run⟩ | ⟨-, run⟩ := runCommand_cases op w s
  · have writes : i.writes = true := (decodeCommand_getLsbD_zero op w i hi).symm.trans odd
    exact exec_write_ok_data i s t writes (run ▸ h) hok
  · obtain ⟨-, rfl⟩ := raiseCommand_inv _ s t (run ▸ h)
    cases hok

/-- The machine after reset with all 12 stored bits of `PSR` set. -/
def State.allSet : State := { State.reset with psr := keepMask }

theorem odd_opCode_cases (op : OpCode) (odd : op.getLsbD 0 = true) (legal : op.toNat < 22) :
    op = 0b00001#5 ∨ op = 0b00011#5 ∨ op = 0b00101#5 ∨ op = 0b00111#5 ∨ op = 0b01001#5 ∨ op = 0b01011#5 ∨
      op = 0b01101#5 ∨ op = 0b01111#5 ∨ op = 0b10001#5 ∨ op = 0b10011#5 ∨ op = 0b10101#5 := by
  revert op
  decide

/-- Write data 0x10 is the operand 0 of the bit and flag writes and User's code for SET_MODE: on a word with every
stored bit set each odd op code of the map clears some bit. -/
theorem runCommand_odd_changes_allSet (op : OpCode) (odd : op.getLsbD 0 = true) (legal : op.toNat < 22) :
    ∃ t, runCommand op 0x00000010#32 State.allSet = .next t ∧ t.readPsr ≠ State.allSet.readPsr := by
  obtain rfl | rfl | rfl | rfl | rfl | rfl | rfl | rfl | rfl | rfl | rfl := odd_opCode_cases op odd legal <;>
    exact ⟨_, rfl, by decide⟩

/-- Settles O31: op bit 0 is the write class, an instruction outside it leaves `PSR`, and `State.allSet` shows each
writer writing. -/
theorem opBitZeroMarksWriters : Obligations.OpBitZeroMarksWriters := by
  unfold Obligations.OpBitZeroMarksWriters
  refine ⟨fun op w i h => ?_, fun op w s t h => ⟨runCommand_even_psr op w s t h, runCommand_odd_ok_data op w s t h⟩,
    fun op odd legal => ⟨0x00000010#32, State.allSet, runCommand_odd_changes_allSet op odd legal⟩⟩
  rw [decode_append] at h
  exact decodeCommand_getLsbD_zero op w i h

end Sys2Proof.Machine
end

section
/-! One step of the port (spec/30_encoding.md R39, R45, R102): it runs the command it faces, without one it is idle,
and after reset it completes. -/

namespace Sys2Proof.Machine

open Sys2Proof.Stated

/-- Settles O38: the codes are the table of R45, and a raise answers its error's code. -/
theorem responseCodesOfErrors : Obligations.ResponseCodesOfErrors := by
  unfold Obligations.ResponseCodesOfErrors
  refine ⟨rfl, fun e s => ?_, fun _ => rfl, fun _ => rfl, fun _ => rfl⟩
  rw [raise_rsp]

/-- A step that faces a command that decodes is the instruction's meaning, after the step's tap read. -/
theorem step_command (s : State) (x : ClientStep) (rest : List ClientStep) (i : Instr) (hs : s.schedule = x :: rest)
    (ho : x.client = .owner) (hv : x.cmdValid = true) (hd : decodeCommand x.cmdOp x.cmdWdata = .ok i) :
    step s = exec i ((s.withSchedule rest).observeTaps x.tapRead) := by
  rw [step_cons s x rest hs, runClientStep_command x _ ho hv]
  exact runCommand_ok _ _ i _ hd

/-- Settles O39: by `step_command`; without a tap read the command sees the state itself. -/
theorem stepRunsTheDecodedCommand : Obligations.StepRunsTheDecodedCommand := by
  unfold Obligations.StepRunsTheDecodedCommand
  intro s x rest i hs ho hv hd
  rw [decode_append] at hd
  have run := step_command s x rest i hs ho hv hd
  refine ⟨run, fun noTap => ?_⟩
  rw [run, noTap]
  rfl

theorem decodeTableWord_inv (nbits w : Nat) (i : Instr) (h : decodeTableWord nbits w = some i) :
    decode (tableCommand nbits w) = .ok i := by
  rw [decodeTableWord] at h
  split at h
  · cases h; assumption
  · cases h

/-- Settles O40: the placed command is the one the next step faces, and its tap read is none. -/
theorem fetchWordRunsNext : Obligations.FetchWordRunsNext := by
  unfold Obligations.FetchWordRunsNext
  intro s nbits w i h
  exact step_command (s.withFetchWord nbits w) (presentCommand (tableCommand nbits w)) s.schedule i rfl rfl rfl
    (decodeTableWord_inv nbits w i h)

/-- Settles O41: with `cmd_valid` = 0 and at the end of the schedule the step is idle. -/
theorem noCommandLeavesPsr : Obligations.NoCommandLeavesPsr := by
  unfold Obligations.NoCommandLeavesPsr
  exact ⟨step_facing_noCommand, step_nil⟩

/-- After reset a command on the port completes, a reserved op code by its raise (R44). -/
theorem runCommand_completes (op : OpCode) (w : Word) (s : State) (h : s.resetDone = true) :
    ∃ t, runCommand op w s = .next t := by
  obtain ⟨i, -, run⟩ | ⟨-, run⟩ := runCommand_cases op w s
  · rw [run]; exact exec_completes i s h
  · exact ⟨_, run.trans (raiseCommand_next _ s h)⟩

/-- After reset the owner's step completes, with a command or without. -/
theorem runClientStep_completes (x : ClientStep) (s : State) (ho : x.client = .owner) (h : s.resetDone = true) :
    ∃ t, runClientStep x s = .next t := by
  cases hv : x.cmdValid with
  | false => exact ⟨_, runClientStep_noCommand x s ho hv⟩
  | true =>
    rw [runClientStep_command x s ho hv]
    exact runCommand_completes _ _ _ ((observeTaps_resetDone s x.tapRead).trans h)

theorem core_run_completes (entries : List ClientStep) :
    ∀ s : State, s.schedule = entries → s.resetDone = true → (∀ x ∈ entries, x.client = .owner) →
      ∃ t, core.run entries.length s = .next t ∧ t.schedule = [] ∧ t.resetDone = true ∧ t.policy = s.policy := by
  induction entries with
  | nil => exact fun s hs hd _ => ⟨s, rfl, hs, hd, rfl⟩
  | cons x rest ih =>
    intro s hs hd howner
    obtain ⟨hx, hrest⟩ := List.forall_mem_cons.mp howner
    obtain ⟨u, hu⟩ : ∃ u, step s = .next u := by
      rw [step_cons s x rest hs]
      exact runClientStep_completes x _ hx hd
    obtain ⟨policy, schedule, resetDone⟩ := step_keepsEnvironment s u hu
    have remaining : u.schedule = rest := schedule.trans (congrArg List.tail hs)
    obtain ⟨t, run, ended, done, samePolicy⟩ := ih u remaining (resetDone hd) hrest
    exact ⟨t, (core_run_succ _ s u hu).trans run, ended, done, samePolicy.trans policy⟩

/-- Settles O51: by induction on the schedule, one completed step of the owner per entry. -/
theorem everyScheduleRunsToItsEnd : Obligations.EveryScheduleRunsToItsEnd := by
  unfold Obligations.EveryScheduleRunsToItsEnd
  exact fun s hd howner => core_run_completes s.schedule s rfl hd howner

end Sys2Proof.Machine
end

section
/-! The taps beside the read commands (spec/30_encoding.md R47, R48, spec/42_mode.md R61): both are the same functions
of the word `PSR` reads as. -/

namespace Sys2Proof.Machine

open Sys2Proof.Stated

theorem readTaps_afterReset (s : State) (h : s.resetDone = true) : s.readTaps = .ok (tapsOf s.readPsr) := if_pos h

/-- A command of the read shape answers its function of `PSR`, after reset. -/
theorem reads_of_readCommand (i : Instr) (d : Word → Word) (s : State) (hd : s.resetDone = true)
    (h : exec i s = readCommand d s) : Reads i s (d s.readPsr) :=
  h.trans (readCommand_next d s hd)

theorem getMode_reads_of_modeValid (s : State) (hd : s.resetDone = true) (hv : modeValid (modeField s.readPsr) = true) :
    Reads .getMode s ((modeField s.readPsr).setWidth 32) := by
  obtain ⟨m, hm⟩ := (modeValid_iff _).mp hv
  exact reads_of_readCommand .getMode (fun psr => (modeField psr).setWidth 32) s hd (exec_getMode_legal s m hm)

theorem getMode_raises_of_not_modeValid (s : State) (hd : s.resetDone = true)
    (hv : modeValid (modeField s.readPsr) = false) :
    Raises .getMode s .invalidMode ((modeField s.readPsr).setWidth 32) (.invalidMode (modeField s.readPsr)) := by
  have hm := (modeValid_eq_false_iff _).mp hv
  exact (exec_getMode_illegal s hm).trans (raiseCommand_next _ s hd)

/-- R16: `mode_valid_q` marks the seven codes of the table. -/
theorem modeValid_iff_mem_legalCodes (code : ModeCode) :
    modeValid code = true ↔ code ∈ legalCodes.map Prod.fst := by
  revert code
  decide

/-- R48: bit k of `mode_onehot_q` marks the k-th code in the source's listing order. -/
theorem modeOneHot_getLsbD_iff (code : ModeCode) (k : Fin 7) :
    (modeOneHot code).getLsbD k = true ↔ (legalCodes.map Prod.fst)[k.val]? = some code := by
  revert code k
  decide

theorem modeOneHot_of_not_modeValid (code : ModeCode) (hv : modeValid code = false) : modeOneHot code = 0b0000000#7 := by
  rw [modeOneHot, (modeValid_eq_false_iff code).mp hv]

/-- Settles O45: each tap and its read command apply one function to `PSR`, and the mode taps follow the code table. -/
theorem tapsEqualTheirReadCommands : Obligations.TapsEqualTheirReadCommands := by
  unfold Obligations.TapsEqualTheirReadCommands
  intro s hd
  have reads (i : Instr) (d : Word → Word) (h : exec i s = readCommand d s) : Reads i s (d s.readPsr) :=
    reads_of_readCommand i d s hd h
  refine ⟨tapsOf s.readPsr, readTaps_afterReset s hd,
    reads .get (fun psr => psr) rfl,
    reads .getState (fun psr => zextBit (readBit psr bitT)) rfl,
    reads .getIrqDis (fun psr => zextBit (readBit psr bitI)) rfl,
    reads .getFiqDis (fun psr => zextBit (readBit psr bitF)) rfl,
    reads .getN (fun psr => zextBit (readBit psr bitN)) rfl,
    reads .getZ (fun psr => zextBit (readBit psr bitZ)) rfl,
    reads .getC (fun psr => zextBit (readBit psr bitC)) rfl,
    reads .getV (fun psr => zextBit (readBit psr bitV)) rfl,
    reads .getFlags (fun psr => (extractFlags psr).setWidth 32) rfl,
    getMode_reads_of_modeValid s hd, getMode_raises_of_not_modeValid s hd, rfl,
    modeValid_iff_mem_legalCodes _, modeOneHot_getLsbD_iff _, fun unlisted => ?_⟩
  have invalid : modeValid (modeField s.readPsr) = false :=
    Bool.eq_false_iff.mpr fun valid => unlisted ((modeValid_iff_mem_legalCodes _).mp valid)
  exact ⟨modeOneHot_of_not_modeValid _ invalid, invalid⟩

end Sys2Proof.Machine
end

section
/-! Bulk access (spec/40_bulk_access.md R54 to R57). NOP is an idle step, RESET leaves one status word whatever it
found, GET answers the word and SET stores it: a read or a write of the whole `PSR`, through its wiring. -/

namespace Sys2Proof.Machine

open Sys2Proof.Stated

/-- A command of the write shape stores what its function of `PSR` reads as, after reset. -/
theorem writes_of_writeCommand (i : Instr) (u : Word → Word) (s : State) (hd : s.resetDone = true)
    (h : exec i s = writeCommand u s) : Writes i s (wired (u s.readPsr)) :=
  h.trans (writeCommand_next u s hd)

/-- A masked word is already wired (R15). -/
@[simp] theorem wired_and_keepMask (v : Word) : wired (v &&& keepMask) = v &&& keepMask := wired_wired v

/-- Bits 27:8 of a wired word are the slice of constant 0 (R15). -/
theorem extractLsb'_reserved_wired (w : Word) : (wired w).extractLsb' 8 20 = 0#20 := by
  apply BitVec.eq_of_getLsbD_eq
  intro j hj
  have reserved : ¬(8 + j < 8 ∨ (28 ≤ 8 + j ∧ 8 + j < 32)) := by omega
  rw [BitVec.getLsbD_extractLsb', getLsbD_wired, decide_eq_false reserved, Bool.and_false, Bool.and_false,
    BitVec.getLsbD_zero]

/-- After reset NOP does what a step without a command does (R39, R54). -/
theorem exec_nop (s : State) (hd : s.resetDone = true) : exec .nop s = .next s.idle :=
  readCommand_next (fun _ => 0x00000000#32) s hd

/-- Settles O2: the step with NOP and the step without a command are both idle. -/
theorem nopIsAnIdleStep : Obligations.NopIsAnIdleStep := by
  unfold Obligations.NopIsAnIdleStep
  refine ⟨fun w => decode_append 0b00000#5 w, exec_nop, fun s rest w op' w' hd => ?_⟩
  have run := step_command (facing s (command .none 0b00000#5 w) rest) (command .none 0b00000#5 w) rest .nop
    rfl rfl rfl rfl
  rw [step_facing_noCommand]
  exact run.trans (exec_nop (s.withSchedule rest) hd)

/-- What RESET answers, its word written out: the reset word needs no wiring (R25, R55). -/
theorem exec_reset_frame (s : State) : exec .reset s =
    .next { s with psr := resetWord, resetDone := true, rsp := { err := .ok, data := 0x00000000#32 } } := by
  rw [exec_reset, State.writePsr, wired_resetWord, State.respond]

/-- Settles O4: by `exec_reset_frame`. -/
theorem resetFrame : Obligations.ResetFrame := by
  unfold Obligations.ResetFrame
  exact exec_reset_frame

/-- Settles O3: the frame of RESET does not mention the old `PSR`, and RESET's own answer is a fixed point of it. -/
theorem resetOverwritesEveryStoredBit : Obligations.ResetOverwritesEveryStoredBit := by
  unfold Obligations.ResetOverwritesEveryStoredBit
  refine ⟨fun w => decode_append 0b00001#5 w, fun s => ?_, fun s p q => ?_⟩
  · exact ⟨_, exec_reset_frame s, rfl, rfl, exec_reset_frame _⟩
  · rw [exec_reset_frame, exec_reset_frame]

theorem get_reads (s : State) (hd : s.resetDone = true) : Reads .get s s.readPsr :=
  reads_of_readCommand .get (fun psr => psr) s hd rfl

theorem set_writes (v : Word) (s : State) (hd : s.resetDone = true) : Writes (.set v) s (v &&& keepMask) := by
  have stored := writes_of_writeCommand (.set v) (fun _ => v &&& keepMask) s hd (exec_set v s)
  rwa [wired_and_keepMask] at stored

/-- Settles O5: GET answers what `PSR` reads as, which is wired, is the stored word where the reserved bits are 0, and
is what the taps show. -/
theorem getReadsTheWholeWord : Obligations.GetReadsTheWholeWord := by
  unfold Obligations.GetReadsTheWholeWord
  refine ⟨fun w => decode_append 0b00010#5 w, fun s hd => ⟨get_reads s hd, fun hz => ?_, ?_, ?_⟩⟩
  · have asStored := get_reads s hd
    rwa [readPsr_eq_psr s hz] at asStored
  · exact extractLsb'_reserved_wired s.psr
  · rw [readTaps_afterReset s hd]
    rfl

/-- GET after SET answers the masked operand (R57). -/
theorem get_reads_of_set (s t : State) (v : Word) (h : exec (.set v) s = .next t) : Reads .get t (v &&& keepMask) := by
  obtain ⟨hd, ht⟩ := writeCommand_inv (fun _ => v &&& keepMask) s t h
  have done : t.resetDone = true := by rw [ht]; exact hd
  have word : t.readPsr = v &&& keepMask := by
    rw [ht, readPsr_respond, readPsr_writePsr, wired_and_keepMask]
  rw [← word]
  exact get_reads t done

/-- SET of the word GET answers restores `PSR`: that word is wired, hence its own masked form (R14, R57). -/
theorem set_of_get_restores (s : State) (hd : s.resetDone = true) (hz : s.ReservedZero) :
    ∃ t u, exec .get s = .next t ∧ exec (.set t.rsp.data) t = .next u ∧ u.psr = s.psr := by
  have masked : s.readPsr &&& keepMask = s.psr := (wired_readPsr s).trans (readPsr_eq_psr s hz)
  exact ⟨_, _, get_reads s hd, set_writes s.readPsr _ hd, masked⟩

/-- Settles O6: SET stores the masked word, and the two orders with GET follow. -/
theorem setStoresTheMaskedWord : Obligations.SetStoresTheMaskedWord := by
  unfold Obligations.SetStoresTheMaskedWord
  exact ⟨fun w => decode_append 0b00011#5 w, fun s v hd => set_writes v s hd,
    fun s t v _ h => get_reads_of_set s t v h, set_of_get_restores⟩

end Sys2Proof.Machine
end

section
/-! The execution state (spec/41_state.md R58, R59), by what every command on one bit of `PSR` does: a read answers the
bit zero-extended, a write of a stored bit needs no wiring, and so it restores, repeats and reads back. -/

namespace Sys2Proof.Machine

open Sys2Proof.Stated

/-- R6, R8: the zero-extended bit is the slice of width 1, zero-extended. -/
theorem zextBit_readBit (w : Word) (k : Nat) : zextBit (readBit w k) = (w.extractLsb' k 1).setWidth 32 := by
  have slice : BitVec.ofBool (readBit w k) = w.extractLsb' k 1 := by
    apply BitVec.eq_of_getLsbD_eq
    simp [readBit]
  rw [zextBit, slice]

theorem readBit_insertBit (k : Nat) (b : Bool) (w : Word) (hk : k < 32) : readBit (insertBit k b w) k = b := by
  rw [readBit, getLsbD_insertBit k b w k hk, if_pos rfl]

theorem writeCommand_resetDone (u : Word → Word) (s t : State) (h : writeCommand u s = .next t) : t.resetDone = true := by
  obtain ⟨hd, rfl⟩ := writeCommand_inv u s t h
  exact hd

section
variable (i : Instr) (k : Nat) (b : Bool) (s t : State)

/-- A command that reads one bit answers it zero-extended, after reset. -/
theorem readBitCommand_reads (hd : s.resetDone = true)
    (h : exec i s = readCommand (fun psr => zextBit (readBit psr k)) s) :
    Reads i s ((s.readPsr.extractLsb' k 1).setWidth 32) := by
  rw [← zextBit_readBit]
  exact reads_of_readCommand i (fun psr => zextBit (readBit psr k)) s hd h

/-- A command that writes one stored bit stores its update as it is, after reset. -/
theorem insertBitCommand_writes (hk : k < 8 ∨ (28 ≤ k ∧ k < 32)) (hd : s.resetDone = true)
    (h : exec i s = writeCommand (insertBit k b) s) : Writes i s (insertBit k b s.readPsr) := by
  have stored := writes_of_writeCommand i (insertBit k b) s hd h
  rwa [readPsr_eq_wired, wired_insertBit k b s.psr hk] at stored

theorem insertBitCommand_readPsr (hk : k < 8 ∨ (28 ≤ k ∧ k < 32)) (h : writeCommand (insertBit k b) s = .next t) :
    t.readPsr = insertBit k b s.readPsr := by
  rw [writeCommand_readPsr _ s t h, readPsr_eq_wired, wired_insertBit k b s.psr hk]

/-- Writing the bit `PSR` holds leaves `PSR`. -/
theorem insertBitCommand_held (hk : k < 8 ∨ (28 ≤ k ∧ k < 32)) (h : writeCommand (insertBit k b) s = .next t)
    (held : s.readPsr.getLsbD k = b) : t.readPsr = s.readPsr := by
  rw [insertBitCommand_readPsr k b s t hk h, ← held, insertBit_self k s.readPsr (by omega)]

/-- The same write again answers the state it already left. -/
theorem insertBitCommand_repeated (hk : k < 8 ∨ (28 ≤ k ∧ k < 32)) (h : writeCommand (insertBit k b) s = .next t) :
    writeCommand (insertBit k b) t = .next t := by
  have word : insertBit k b t.readPsr = insertBit k b s.readPsr := by
    rw [insertBitCommand_readPsr k b s t hk h, insertBit_insertBit k b b s.readPsr (by omega)]
  have answer := writeCommand_next (insertBit k b) t (writeCommand_resetDone _ s t h)
  obtain ⟨-, left⟩ := writeCommand_inv (insertBit k b) s t h
  rw [answer, word, left]
  rfl

/-- A read of the bit after its write answers what was written. -/
theorem readBitCommand_reads_of_insertBitCommand (hk : k < 8 ∨ (28 ≤ k ∧ k < 32))
    (hw : writeCommand (insertBit k b) s = .next t)
    (hr : exec i t = readCommand (fun psr => zextBit (readBit psr k)) t) : Reads i t (zextBit b) := by
  have bit : readBit t.readPsr k = b := by
    rw [insertBitCommand_readPsr k b s t hk hw, readBit_insertBit k b s.readPsr (by omega)]
  rw [← bit]
  exact reads_of_readCommand i (fun psr => zextBit (readBit psr k)) t (writeCommand_resetDone _ s t hw) hr

end

theorem exec_getState (s : State) : exec .getState s = readCommand (fun psr => zextBit (readBit psr bitT)) s := rfl

theorem exec_setState (x : ExecState) (s : State) :
    exec (.setState x) s = writeCommand (insertBit bitT (boolOfState x)) s := rfl

/-- Settles O7: GET_STATE is a read of one bit. -/
theorem getStateReadsBitFive : Obligations.GetStateReadsBitFive := by
  unfold Obligations.GetStateReadsBitFive
  exact ⟨fun w => decode_append 0b00100#5 w, fun s hd => readBitCommand_reads .getState bitT s hd (exec_getState s)⟩

/-- R18: the source's mapping of the execution state to a boolean. -/
theorem boolOfState_eq_decide (x : ExecState) : boolOfState x = decide (x = .thumb) := by
  cases x <;> rfl

theorem zextBit_boolOfState (x : ExecState) : zextBit (boolOfState x) = if x = .thumb then 1#32 else 0#32 := by
  cases x <;> rfl

theorem setState_writes (x : ExecState) (s : State) (hd : s.resetDone = true) :
    Writes (.setState x) s (insertBit bitT (boolOfState x) s.readPsr) :=
  insertBitCommand_writes (.setState x) bitT (boolOfState x) s (by decide) hd (exec_setState x s)

/-- Settles O8: SET_STATE is a write of one stored bit, and GET_STATE the read of it. -/
theorem setStateWritesBitFive : Obligations.SetStateWritesBitFive := by
  unfold Obligations.SetStateWritesBitFive
  refine ⟨fun w => decode_append 0b00101#5 w, fun s hd => ⟨setState_writes .arm s hd, setState_writes .thumb s hd⟩,
    fun s t x _ h => ?_⟩
  rw [exec_setState] at h
  rw [← boolOfState_eq_decide, exec_setState, ← zextBit_boolOfState]
  exact ⟨insertBitCommand_held bitT (boolOfState x) s t (by decide) h,
    insertBitCommand_repeated bitT (boolOfState x) s t (by decide) h,
    readBitCommand_reads_of_insertBitCommand .getState bitT (boolOfState x) s t (by decide) h (exec_getState t)⟩

end Sys2Proof.Machine
end

section
/-! The mode (spec/42_mode.md R60 to R64, R83). The decoder is the code table of R16; GET_MODE, a typed read of the mode
taps and SET_MODE branch on it alone, and SET_MODE's update is a write of bits 4:0 that needs no wiring. -/

namespace Sys2Proof.Machine

open Sys2Proof.Stated

theorem modeDecode_of_mem_legalCodes : ∀ entry ∈ legalCodes, modeDecode entry.1 = some entry.2 := by decide

/-- R60: the decoder is the table. -/
theorem modeDecode_eq_some_iff (c : ModeCode) (m : Mode) : modeDecode c = some m ↔ (c, m) ∈ legalCodes := by
  constructor
  · intro h
    rw [modeDecode_eq_some c m h]
    cases m <;> decide
  · exact modeDecode_of_mem_legalCodes (c, m)

theorem modeValid_iff_listed (c : ModeCode) : modeValid c = true ↔ ∃ m, (c, m) ∈ legalCodes := by
  simp only [modeValid_iff, modeDecode_eq_some_iff]

theorem modeValid_eq_false_iff_unlisted (c : ModeCode) : modeValid c = false ↔ ∀ m, (c, m) ∉ legalCodes := by
  rw [← Bool.not_eq_true, modeValid_iff_listed, not_exists]

/-- R48: no code stands twice in the listing, so at most one bit of `mode_onehot_q` is set. -/
theorem modeOneHot_bit_unique (c : ModeCode) (j k : Fin 7) (hj : (modeOneHot c).getLsbD j = true)
    (hk : (modeOneHot c).getLsbD k = true) : j = k := by
  have distinct : (legalCodes.map Prod.fst).Nodup := by decide
  have sameEntry : (legalCodes.map Prod.fst)[j.val]? = (legalCodes.map Prod.fst)[k.val]? :=
    ((modeOneHot_getLsbD_iff c j).mp hj).trans ((modeOneHot_getLsbD_iff c k).mp hk).symm
  exact Fin.ext ((List.getElem?_inj j.isLt distinct).mp sameEntry)

/-- R64: OR-ing in a code gives the code exactly where no other bit was set. -/
theorem or_eq_right_iff_and_not_eq_zero (p m : ModeCode) : p ||| m = m ↔ p &&& ~~~m = 0#5 := by
  have bitwise (j : Nat) (hj : j < 5) :
      (p ||| m).getLsbD j = m.getLsbD j ↔ (p &&& ~~~m).getLsbD j = (0#5).getLsbD j := by
    rw [BitVec.getLsbD_or, BitVec.getLsbD_and, BitVec.getLsbD_not, BitVec.getLsbD_zero, decide_eq_true hj]
    cases p.getLsbD j <;> cases m.getLsbD j <;> decide
  constructor
  · intro h
    exact BitVec.eq_of_getLsbD_eq fun j hj => (bitwise j hj).mp (by rw [h])
  · intro h
    exact BitVec.eq_of_getLsbD_eq fun j hj => (bitwise j hj).mpr (by rw [h])

/-- R63: under either policy, writing the mode a word holds leaves the word. -/
theorem writeModeField_modeField (p : ModeWritePolicy) (w : Word) : writeModeField p (modeField w) w = w := by
  apply BitVec.eq_of_getLsbD_eq
  intro j _
  have field : (modeField w).getLsbD j = (decide (j < 5) && w.getLsbD j) := by simp [modeField]
  cases p with
  | replace =>
    rw [getLsbD_writeModeField_replace, field]
    split <;> simp [*]
  | orMerge =>
    rw [getLsbD_writeModeField_orMerge, field]
    cases w.getLsbD j <;> simp

/-- SET_MODE with a legal code stores its policy's update as it is, after reset. -/
theorem setMode_writes_of_modeValid (code : ModeCode) (s : State) (hd : s.resetDone = true)
    (hv : modeValid code = true) : Writes (.setMode code) s (writeModeField s.policy code s.readPsr) := by
  obtain ⟨m, hm⟩ := (modeValid_iff code).mp hv
  have stored := writes_of_writeCommand (.setMode code) (writeModeField s.policy code) s hd
    (exec_setMode_legal s code m hm)
  rwa [readPsr_eq_wired, wired_writeModeField] at stored

theorem setMode_raises_of_not_modeValid (code : ModeCode) (s : State) (hd : s.resetDone = true)
    (hv : modeValid code = false) :
    Raises (.setMode code) s .illegalOperand (code.setWidth 32) (.illegalOperand code) := by
  have hm := (modeValid_eq_false_iff code).mp hv
  exact (exec_setMode_illegal s code hm).trans (raiseCommand_next _ s hd)

/-- What `PSR` reads as after SET_MODE with a legal code. -/
theorem setMode_next_of_modeValid (code : ModeCode) (s : State) (hd : s.resetDone = true)
    (hv : modeValid code = true) :
    ∃ t, exec (.setMode code) s = .next t ∧ t.resetDone = true ∧
      t.readPsr = writeModeField s.policy code s.readPsr :=
  ⟨_, setMode_writes_of_modeValid code s hd hv, hd, wired_writeModeField s.policy code s.psr⟩

/-- Settles O11: the code's legality decides between the raise and the write, and what GET_MODE answers after the write
is the mode field of the update. -/
theorem setModeWritesByPolicy : Obligations.SetModeWritesByPolicy := by
  unfold Obligations.SetModeWritesByPolicy
  refine ⟨fun w => decode_append 0b00111#5 w, fun s code hd => ⟨fun unlisted => ?_, fun listed => ?_⟩⟩
  · exact setMode_raises_of_not_modeValid code s hd ((modeValid_eq_false_iff_unlisted code).mpr unlisted)
  have hv := (modeValid_iff_listed code).mpr listed
  have written := setMode_writes_of_modeValid code s hd hv
  obtain ⟨t, ht, done, word⟩ := setMode_next_of_modeValid code s hd hv
  refine ⟨fun hp => ?_, fun hp => ?_, t, ht, fun hp => ?_, fun hp => ?_, fun held => ?_⟩
  · rwa [hp] at written
  · rwa [hp] at written
  · have field : modeField t.readPsr = code := by rw [word, hp, modeField_writeModeField_replace]
    have reads := getMode_reads_of_modeValid t done (field.symm ▸ hv)
    rwa [field] at reads
  · have field : modeField t.readPsr = modeField s.readPsr ||| code := by
      rw [word, hp, modeField_writeModeField_orMerge]
    change modeField t.readPsr = code ↔ _
    rw [field]
    exact or_eq_right_iff_and_not_eq_zero (modeField s.readPsr) code
  · rw [word, ← held]
    exact writeModeField_modeField s.policy s.readPsr

/-- Under `OrMerge` SET_MODE of a legal code leaves the OR in the mode field, which is legal where the old field was
(R64). -/
theorem setMode_orMerge (code : ModeCode) (s : State) (hd : s.resetDone = true) (hp : s.policy = .orMerge)
    (hv : modeValid code = true) :
    ∃ t, exec (.setMode code) s = .next t ∧ modeField t.readPsr = modeField s.readPsr ||| code ∧
      (s.LegalMode → t.LegalMode) := by
  obtain ⟨t, ht, -, word⟩ := setMode_next_of_modeValid code s hd hv
  have field : modeField t.readPsr = modeField s.readPsr ||| code := by
    rw [word, hp, modeField_writeModeField_orMerge]
  refine ⟨t, ht, field, fun legal => ?_⟩
  rw [State.LegalMode, field]
  exact modeValid_or _ code legal hv

/-- Every legal code has the bits of User's, so from USR the OR is the code (R64). -/
theorem usr_or_of_modeValid (m : ModeCode) (hv : modeValid m = true) : 0b10000#5 ||| m = m := by
  revert m
  decide

/-- Settles O12: `setMode_orMerge` for the command, the codes' closure under OR, and the rows of R64's table
evaluated. -/
theorem orMergeKeepsLegalButCanMissTheMode : Obligations.OrMergeKeepsLegalButCanMissTheMode := by
  unfold Obligations.OrMergeKeepsLegalButCanMissTheMode
  refine ⟨fun s m hd hp hv => setMode_orMerge m s hd hp hv, modeValid_or, or_eq_right_iff_and_not_eq_zero,
    fun m hv => ⟨usr_or_of_modeValid m hv, BitVec.or_allOnes, BitVec.or_self⟩, ?_⟩
  decide

/-- Settles O9: the decoder is the table, and `mode_valid_q` and `mode_onehot_q` follow it. -/
theorem modeDecoderTable : Obligations.ModeDecoderTable := by
  unfold Obligations.ModeDecoderTable
  exact ⟨modeDecode_eq_some_iff, modeValid_iff_mem_legalCodes, modeOneHot_getLsbD_iff, modeOneHot_of_not_modeValid,
    modeOneHot_bit_unique⟩

/-- Settles O10: the mode field is one of the seven codes, and GET_MODE answers it, or it is none, and GET_MODE
raises. -/
theorem getModeAnswersOrRaises : Obligations.GetModeAnswersOrRaises := by
  unfold Obligations.GetModeAnswersOrRaises
  refine ⟨fun w => decode_append 0b00110#5 w, fun s hd => ⟨fun listed => ?_, fun unlisted => ?_⟩⟩
  · exact getMode_reads_of_modeValid s hd ((modeValid_iff_listed _).mpr listed)
  · exact getMode_raises_of_not_modeValid s hd ((modeValid_eq_false_iff_unlisted _).mpr unlisted)

/-- A typed read of the mode taps in a legal mode is the decoded mode (R61). -/
theorem readModeTaps_legal (s : State) (m : Mode) (hd : s.resetDone = true)
    (hm : modeDecode (modeField s.readPsr) = some m) : s.readModeTaps = .ok m := by
  simp only [State.readModeTaps, hd, hm, if_true]

/-- A typed read of the mode taps in an illegal mode is INVALID_MODE's fault, and no value (R61, R83). -/
theorem readModeTaps_illegal (s : State) (hd : s.resetDone = true) (hm : modeDecode (modeField s.readPsr) = none) :
    s.readModeTaps = .error (.error (.invalidMode (modeField s.readPsr))) := by
  simp only [State.readModeTaps, hd, hm, if_true]

/-- A step with a tap read and no command records what the read does, and is idle else (R39). -/
theorem step_facing_tapRead_noCommand (s : State) (rest : List ClientStep) (op : OpCode) (w : Word) (r : TapRead) :
    step (facing s { noCommand op w with tapRead := r } rest) = .next ((s.withSchedule rest).observeTaps r).idle := by
  rw [step_cons _ { noCommand op w with tapRead := r } rest rfl, runClientStep_noCommand _ _ rfl rfl]
  rfl

/-- Settles O24: the value of the read and its mark in the step's log, in an illegal and in a legal mode. -/
theorem typedTapReadFaultsInIllegalMode : Obligations.TypedTapReadFaultsInIllegalMode := by
  unfold Obligations.TypedTapReadFaultsInIllegalMode
  intro s rest op w hd
  rw [step_facing_tapRead_noCommand]
  refine ⟨fun illegal => ⟨readModeTaps_illegal s hd illegal, ?_⟩, fun m legal => ⟨readModeTaps_legal s m hd legal, ?_⟩⟩
  · rw [observeTaps_typed_illegal (s.withSchedule rest) hd illegal]
    rfl
  · rw [observeTaps_typed_legal (s.withSchedule rest) m hd legal]
    rfl

end Sys2Proof.Machine
end

section
/-! The interrupt masks (spec/43_interrupt_masks.md R65 to R68): I and F are stored bits of `PSR` outside the mode field,
so each is read and written as the execution state is, in every mode. -/

namespace Sys2Proof.Machine

open Sys2Proof.Stated

/-- A command that writes the bit `PSR` holds answers with `PSR` as it reads, after reset. -/
theorem insertBitCommand_writes_held (i : Instr) (k : Nat) (b : Bool) (s : State) (hk : k < 8 ∨ (28 ≤ k ∧ k < 32))
    (hd : s.resetDone = true) (h : exec i s = writeCommand (insertBit k b) s) (held : s.readPsr.getLsbD k = b) :
    Writes i s s.readPsr := by
  have same : insertBit k b s.readPsr = s.readPsr := by rw [← held, insertBit_self k s.readPsr (by omega)]
  have written := insertBitCommand_writes i k b s hk hd h
  rwa [same] at written

theorem exec_getIrqDis (s : State) : exec .getIrqDis s = readCommand (fun psr => zextBit (readBit psr bitI)) s := rfl

theorem exec_setIrqDis (b : Bool) (s : State) : exec (.setIrqDis b) s = writeCommand (insertBit bitI b) s := rfl

theorem exec_getFiqDis (s : State) : exec .getFiqDis s = readCommand (fun psr => zextBit (readBit psr bitF)) s := rfl

theorem exec_setFiqDis (b : Bool) (s : State) : exec (.setFiqDis b) s = writeCommand (insertBit bitF b) s := rfl

/-- Settles O13: GET_IRQ_DIS is a read of one bit. -/
theorem getIrqDisReadsBitSeven : Obligations.GetIrqDisReadsBitSeven := by
  unfold Obligations.GetIrqDisReadsBitSeven
  exact ⟨fun w => decode_append 0b01000#5 w, fun s hd => readBitCommand_reads .getIrqDis bitI s hd (exec_getIrqDis s)⟩

/-- Settles O14: SET_IRQ_DIS is a write of one stored bit. -/
theorem setIrqDisWritesBitSeven : Obligations.SetIrqDisWritesBitSeven := by
  unfold Obligations.SetIrqDisWritesBitSeven
  refine ⟨fun w => decode_append 0b01001#5 w, fun s b hd => ⟨?_, fun held => ?_⟩⟩
  · exact insertBitCommand_writes (.setIrqDis b) bitI b s (by decide) hd (exec_setIrqDis b s)
  · exact insertBitCommand_writes_held (.setIrqDis b) bitI b s (by decide) hd (exec_setIrqDis b s) held

/-- Settles O15: GET_FIQ_DIS is a read of one bit. -/
theorem getFiqDisReadsBitSix : Obligations.GetFiqDisReadsBitSix := by
  unfold Obligations.GetFiqDisReadsBitSix
  exact ⟨fun w => decode_append 0b01010#5 w, fun s hd => readBitCommand_reads .getFiqDis bitF s hd (exec_getFiqDis s)⟩

/-- Settles O16: SET_FIQ_DIS is a write of one stored bit. -/
theorem setFiqDisWritesBitSix : Obligations.SetFiqDisWritesBitSix := by
  unfold Obligations.SetFiqDisWritesBitSix
  refine ⟨fun w => decode_append 0b01011#5 w, fun s b hd => ⟨?_, fun held => ?_⟩⟩
  · exact insertBitCommand_writes (.setFiqDis b) bitF b s (by decide) hd (exec_setFiqDis b s)
  · exact insertBitCommand_writes_held (.setFiqDis b) bitF b s (by decide) hd (exec_setFiqDis b s) held

end Sys2Proof.Machine
end

section
/-! The condition flags (spec/44_condition_flags.md R69 to R79). Each flag is one stored bit of `PSR`; the packer is the
four single-bit writes composed. Writes of different bits commute, so a program of them runs alike in every order. -/

namespace Sys2Proof.Machine

open Sys2Proof.Stated

/-! The word: one bit, and the packed value. -/

/-- Writes of different bits commute. -/
theorem insertBit_comm (j k : Nat) (b c : Bool) (w : Word) (hj : j < 32) (hk : k < 32) (hne : j ≠ k) :
    insertBit j b (insertBit k c w) = insertBit k c (insertBit j b w) := by
  apply BitVec.eq_of_getLsbD_eq
  intro l _
  simp only [getLsbD_insertBit _ _ _ _ hj, getLsbD_insertBit _ _ _ _ hk]
  by_cases hl : l = j
  · rw [if_pos hl, if_pos hl, if_neg (by omega)]
  · rw [if_neg hl, if_neg hl]

/-- What a single-bit write finds in the reserved bits does not show once its result is wired (R15). -/
theorem wired_insertBit_wired (k : Nat) (b : Bool) (w : Word) (hk : k < 32) :
    wired (insertBit k b (wired w)) = wired (insertBit k b w) := by
  apply BitVec.eq_of_getLsbD_eq
  intro j _
  simp only [getLsbD_wired, getLsbD_insertBit _ _ _ _ hk]
  split
  · rfl
  · rw [Bool.and_assoc, Bool.and_self]

theorem writePsr_insertBit_wired (s : State) (k : Nat) (b : Bool) (w : Word) (hk : k < 32) :
    s.writePsr (insertBit k b (wired w)) = s.writePsr (insertBit k b w) := by
  rw [State.writePsr, wired_insertBit_wired k b w hk, State.writePsr]

/-- The packed flags, N first (R49). -/
def nzcv (n z c v : Bool) : Nzcv := BitVec.ofBool n ++ BitVec.ofBool z ++ BitVec.ofBool c ++ BitVec.ofBool v

/-- R49: bit 3 is N, bit 2 is Z, bit 1 is C, bit 0 is V. -/
theorem getLsbD_nzcv (n z c v : Bool) (j : Nat) (hj : j < 4) :
    (nzcv n z c v).getLsbD j = if j = 3 then n else if j = 2 then z else if j = 1 then c else v := by
  interval_cases j <;> revert n z c v <;> decide

/-- The extractor is the four single-bit reads packed (R79). -/
theorem extractFlags_eq_nzcv (w : Word) :
    extractFlags w = nzcv (readBit w bitN) (readBit w bitZ) (readBit w bitC) (readBit w bitV) := by
  apply BitVec.eq_of_getLsbD_eq
  intro j hj
  rw [getLsbD_nzcv _ _ _ _ j hj, extractFlags, BitVec.getLsbD_extractLsb', decide_eq_true hj, Bool.true_and]
  interval_cases j <;> rfl

/-- The packer is the four single-bit writes composed (R79). -/
theorem packFlags_nzcv (n z c v : Bool) (w : Word) :
    packFlags (nzcv n z c v) w = insertBit bitV v (insertBit bitC c (insertBit bitZ z (insertBit bitN n w))) := by
  apply BitVec.eq_of_getLsbD_eq
  intro j hj
  rw [getLsbD_packFlags, getLsbD_insertBit _ _ _ _ (by decide), getLsbD_insertBit _ _ _ _ (by decide),
    getLsbD_insertBit _ _ _ _ (by decide), getLsbD_insertBit _ _ _ _ (by decide)]
  by_cases flag : 28 ≤ j
  · rw [if_pos ⟨flag, hj⟩, getLsbD_nzcv n z c v (j - 28) (by omega)]
    interval_cases j <;> rfl
  · have other : j ≠ bitV ∧ j ≠ bitC ∧ j ≠ bitZ ∧ j ≠ bitN := by
      simp only [bitV, bitC, bitZ, bitN]
      omega
    simp [flag, other]

/-- The packer keeps I, F, T and M (R78). -/
theorem extractLsb'_controlByte_packFlags (f : Nzcv) (w : Word) :
    (packFlags f w).extractLsb' 0 8 = w.extractLsb' 0 8 := by
  apply BitVec.eq_of_getLsbD_eq
  intro j hj
  rw [BitVec.getLsbD_extractLsb', BitVec.getLsbD_extractLsb', getLsbD_packFlags, if_neg (by omega)]

/-! The shape of each command. -/

theorem exec_getN (s : State) : exec .getN s = readCommand (fun psr => zextBit (readBit psr bitN)) s := rfl

theorem exec_setN (b : Bool) (s : State) : exec (.setN b) s = writeCommand (insertBit bitN b) s := rfl

theorem exec_getZ (s : State) : exec .getZ s = readCommand (fun psr => zextBit (readBit psr bitZ)) s := rfl

theorem exec_setZ (b : Bool) (s : State) : exec (.setZ b) s = writeCommand (insertBit bitZ b) s := rfl

theorem exec_getC (s : State) : exec .getC s = readCommand (fun psr => zextBit (readBit psr bitC)) s := rfl

theorem exec_setC (b : Bool) (s : State) : exec (.setC b) s = writeCommand (insertBit bitC b) s := rfl

theorem exec_getV (s : State) : exec .getV s = readCommand (fun psr => zextBit (readBit psr bitV)) s := rfl

theorem exec_setV (b : Bool) (s : State) : exec (.setV b) s = writeCommand (insertBit bitV b) s := rfl

theorem exec_getFlags (s : State) :
    exec .getFlags s = readCommand (fun psr => (extractFlags psr).setWidth 32) s := rfl

theorem exec_setFlags (f : Nzcv) (s : State) : exec (.setFlags f) s = writeCommand (packFlags f) s := rfl

/-- The statement's list of flag writes: each writes its own bit, one of the four top ones. -/
theorem exec_of_mem_flagWriters (k : Nat) (set : Bool → Instr) (h : (k, set) ∈ flagWriters) :
    (28 ≤ k ∧ k < 32) ∧ ∀ b s, exec (set b) s = writeCommand (insertBit k b) s := by
  simp only [flagWriters, List.mem_cons, Prod.mk.injEq, List.not_mem_nil, or_false] at h
  obtain ⟨rfl, rfl⟩ | ⟨rfl, rfl⟩ | ⟨rfl, rfl⟩ | ⟨rfl, rfl⟩ := h
  · exact ⟨by decide, exec_setN⟩
  · exact ⟨by decide, exec_setZ⟩
  · exact ⟨by decide, exec_setC⟩
  · exact ⟨by decide, exec_setV⟩

/-! The flag reads and the packed commands. -/

theorem getFlags_reads (s : State) (hd : s.resetDone = true) :
    Reads .getFlags s ((extractFlags s.readPsr).setWidth 32) :=
  reads_of_readCommand .getFlags (fun psr => (extractFlags psr).setWidth 32) s hd (exec_getFlags s)

theorem setFlags_writes (f : Nzcv) (s : State) (hd : s.resetDone = true) :
    Writes (.setFlags f) s (packFlags f s.readPsr) := by
  have stored := writes_of_writeCommand (.setFlags f) (packFlags f) s hd (exec_setFlags f s)
  rwa [readPsr_eq_wired, wired_packFlags] at stored

theorem setFlags_readPsr (f : Nzcv) (s t : State) (h : exec (.setFlags f) s = .next t) :
    t.readPsr = packFlags f s.readPsr := by
  rw [writeCommand_readPsr (packFlags f) s t h, readPsr_eq_wired, wired_packFlags]

/-- GET_FLAGS after SET_FLAGS answers what was written (R79). -/
theorem getFlags_reads_of_setFlags (f : Nzcv) (s t : State) (h : exec (.setFlags f) s = .next t) :
    Reads .getFlags t (f.setWidth 32) := by
  have reads := getFlags_reads t (writeCommand_resetDone (packFlags f) s t h)
  rwa [setFlags_readPsr f s t h, extractFlags_packFlags] at reads

/-- Settles O17: the four flag reads are reads of one bit. -/
theorem flagReadsAnswerTheirBits : Obligations.FlagReadsAnswerTheirBits := by
  unfold Obligations.FlagReadsAnswerTheirBits
  exact ⟨fun w => decode_append 0b01100#5 w, fun w => decode_append 0b01110#5 w,
    fun w => decode_append 0b10000#5 w, fun w => decode_append 0b10010#5 w,
    fun s hd => ⟨readBitCommand_reads .getN bitN s hd (exec_getN s),
      readBitCommand_reads .getZ bitZ s hd (exec_getZ s), readBitCommand_reads .getC bitC s hd (exec_getC s),
      readBitCommand_reads .getV bitV s hd (exec_getV s)⟩⟩

/-- Settles O19: the command and the tap are both the extractor. -/
theorem getFlagsReadsTheNibble : Obligations.GetFlagsReadsTheNibble := by
  unfold Obligations.GetFlagsReadsTheNibble
  refine ⟨fun w => decode_append 0b10100#5 w, fun s hd => ⟨getFlags_reads s hd, ?_⟩⟩
  rw [readTaps_afterReset s hd]
  rfl

/-- Settles O20: the packer's update is stored as it is; its two slices are the new flags and the old control byte. -/
theorem setFlagsWritesTheNibble : Obligations.SetFlagsWritesTheNibble := by
  unfold Obligations.SetFlagsWritesTheNibble
  refine ⟨fun w => decode_append 0b10101#5 w, fun s f hd => ?_⟩
  have written := setFlags_writes f s hd
  refine ⟨written, _, written, ?_⟩
  rw [setFlags_readPsr f s _ written]
  exact ⟨extractFlags_packFlags f s.readPsr, extractLsb'_controlByte_packFlags f s.readPsr⟩

/-! The single-flag writes. -/

/-- A write of any value to a stored bit, then of the value it held at first, restores `PSR`. -/
theorem insertBitCommand_restores (k : Nat) (b : Bool) (s t u : State) (hk : k < 8 ∨ (28 ≤ k ∧ k < 32))
    (ht : writeCommand (insertBit k b) s = .next t)
    (hu : writeCommand (insertBit k (s.readPsr.getLsbD k)) t = .next u) : u.readPsr = s.readPsr := by
  rw [insertBitCommand_readPsr k _ t u hk hu, insertBitCommand_readPsr k b s t hk ht,
    insertBit_insertBit k _ b s.readPsr (by omega), insertBit_self k s.readPsr (by omega)]

/-- Settles O57: both writes complete, and `insertBitCommand_restores`. -/
theorem flagWriteOfTheOldValueRestores : Obligations.FlagWriteOfTheOldValueRestores := by
  unfold Obligations.FlagWriteOfTheOldValueRestores
  intro s k set b hd hset
  obtain ⟨hk, shape⟩ := exec_of_mem_flagWriters k set hset
  obtain ⟨t, ht⟩ := exec_completes (set b) s hd
  have first := (shape b s).symm.trans ht
  obtain ⟨u, hu⟩ := exec_completes (set (s.readPsr.getLsbD k)) t (writeCommand_resetDone _ s t first)
  exact ⟨t, u, ht, hu, insertBitCommand_restores k b s t u (.inr hk) first ((shape _ t).symm.trans hu)⟩

/-- Settles O18: the four flag writes are writes of one stored bit; setting then clearing a clear flag is a case of
`flagWriteOfTheOldValueRestores`. -/
theorem flagWritesStoreTheirBits : Obligations.FlagWritesStoreTheirBits := by
  unfold Obligations.FlagWritesStoreTheirBits
  refine ⟨fun w => decode_append 0b01101#5 w, fun w => decode_append 0b01111#5 w,
    fun w => decode_append 0b10001#5 w, fun w => decode_append 0b10011#5 w, fun s b hd => ⟨?_, ?_, ?_, ?_⟩,
    fun s k set hd hset clear => ?_⟩
  · exact insertBitCommand_writes (.setN b) bitN b s (by decide) hd (exec_setN b s)
  · exact insertBitCommand_writes (.setZ b) bitZ b s (by decide) hd (exec_setZ b s)
  · exact insertBitCommand_writes (.setC b) bitC b s (by decide) hd (exec_setC b s)
  · exact insertBitCommand_writes (.setV b) bitV b s (by decide) hd (exec_setV b s)
  · have restores := flagWriteOfTheOldValueRestores s k set true hd hset
    rwa [clear] at restores

/-! Programs: one after the other, in another order, and of writes only. -/

/-- Go on with a program from an outcome; a fault or a refusal stays. -/
def thenRun (program : List Instr) : Result → Result
  | .next s => runAll program s
  | .fault f => .fault f
  | .refused r => .refused r

theorem runAll_cons (i : Instr) (rest : List Instr) (s : State) : runAll (i :: rest) s = thenRun rest (exec i s) := by
  rw [runAll]
  cases exec i s <;> rfl

theorem runAll_singleton (i : Instr) (s : State) : runAll [i] s = exec i s := by
  rw [runAll_cons]
  cases exec i s <;> rfl

theorem runAll_append (first second : List Instr) :
    ∀ s, runAll (first ++ second) s = thenRun second (runAll first s) := by
  induction first with
  | nil => exact fun s => rfl
  | cons i rest ih =>
    intro s
    rw [List.cons_append, runAll_cons, runAll_cons]
    cases exec i s with
    | next t => exact ih t
    | fault f => rfl
    | refused r => rfl

/-- The two commands run alike in either order, from every state. -/
def Commute (i j : Instr) : Prop := ∀ s, runAll [i, j] s = runAll [j, i] s

theorem Commute.symm {i j : Instr} (h : Commute i j) : Commute j i := fun s => (h s).symm

/-- A program of commands that commute in pairs runs alike in every order. -/
theorem runAll_perm {program order : List Instr} (perm : program.Perm order) :
    program.Pairwise Commute → ∀ s, runAll program s = runAll order s := by
  induction perm with
  | nil => exact fun _ _ => rfl
  | cons i _ ih =>
    intro commute s
    rw [runAll_cons, runAll_cons]
    cases exec i s with
    | next t => exact ih (List.pairwise_cons.mp commute).2 t
    | fault f => rfl
    | refused r => rfl
  | swap i j rest =>
    intro commute s
    have front : Commute j i := List.rel_of_pairwise_cons commute List.mem_cons_self
    rw [← List.singleton_append, ← List.singleton_append (l := rest), ← List.append_assoc,
      runAll_append, List.singleton_append, front s, ← runAll_append]
    rfl
  | trans perm _ ih ih' =>
    intro commute s
    rw [ih commute s, ih' ((perm.pairwise_iff Commute.symm).mp commute) s]

/-- The program does what one command of the write shape with this update does, from every state. -/
def IsOneWrite (program : List Instr) (update : Word → Word) : Prop := ∀ s, runAll program s = writeCommand update s

theorem isOneWrite_singleton (i : Instr) (u : Word → Word) (h : ∀ s, exec i s = writeCommand u s) :
    IsOneWrite [i] u := fun s => (runAll_singleton i s).trans (h s)

/-- One write and then a single-bit write are one write: the wiring in between does not show. -/
theorem IsOneWrite.then_insertBit {program : List Instr} {u : Word → Word} (h : IsOneWrite program u) (i : Instr)
    (k : Nat) (b : Bool) (hk : k < 32) (hi : ∀ s, exec i s = writeCommand (insertBit k b) s) :
    IsOneWrite (program ++ [i]) (fun w => insertBit k b (u w)) := by
  intro s
  rw [runAll_append, h s]
  cases hd : s.resetDone with
  | false => rw [writeCommand, writeCommand, afterReset_refused s _ hd, afterReset_refused s _ hd]; rfl
  | true =>
    have second := writeCommand_next (insertBit k b) ((s.writePsr (u s.readPsr)).respond .ok 0x00000000#32) hd
    rw [readPsr_respond, readPsr_writePsr, writePsr_insertBit_wired _ k b _ hk] at second
    rw [writeCommand_next u s hd, writeCommand_next (fun w => insertBit k b (u w)) s hd, thenRun, runAll_singleton, hi,
      second]
    rfl

/-- Two commands that write different bits commute. -/
theorem commute_of_insertBitCommand (i j : Instr) (k m : Nat) (b c : Bool) (hk : k < 32) (hm : m < 32) (hne : k ≠ m)
    (hi : ∀ s, exec i s = writeCommand (insertBit k b) s) (hj : ∀ s, exec j s = writeCommand (insertBit m c) s) :
    Commute i j := by
  intro s
  have forth := (isOneWrite_singleton i _ hi).then_insertBit j m c hm hj
  have back := (isOneWrite_singleton j _ hj).then_insertBit i k b hk hi
  have same : (fun w => insertBit m c (insertBit k b w)) = fun w => insertBit k b (insertBit m c w) :=
    funext fun w => insertBit_comm m k c b w hm hk hne.symm
  exact (forth s).trans (same ▸ (back s).symm)

section
variable (n z c v : Bool)

theorem singleFlagWrites_commute : [Instr.setN n, .setZ z, .setC c, .setV v].Pairwise Commute := by
  have nz := commute_of_insertBitCommand _ _ _ _ n z (by decide) (by decide) (by decide) (exec_setN n) (exec_setZ z)
  have nc := commute_of_insertBitCommand _ _ _ _ n c (by decide) (by decide) (by decide) (exec_setN n) (exec_setC c)
  have nv := commute_of_insertBitCommand _ _ _ _ n v (by decide) (by decide) (by decide) (exec_setN n) (exec_setV v)
  have zc := commute_of_insertBitCommand _ _ _ _ z c (by decide) (by decide) (by decide) (exec_setZ z) (exec_setC c)
  have zv := commute_of_insertBitCommand _ _ _ _ z v (by decide) (by decide) (by decide) (exec_setZ z) (exec_setV v)
  have cv := commute_of_insertBitCommand _ _ _ _ c v (by decide) (by decide) (by decide) (exec_setC c) (exec_setV v)
  simp [nz, nc, nv, zc, zv, cv]

/-- The four single-flag writes, in the order of R79, are the packed write. -/
theorem runAll_singleFlagWrites (s : State) :
    runAll [.setN n, .setZ z, .setC c, .setV v] s = exec (.setFlags (nzcv n z c v)) s := by
  have oneWrite := (((isOneWrite_singleton _ _ (exec_setN n)).then_insertBit _ _ _ (by decide)
    (exec_setZ z)).then_insertBit _ _ _ (by decide) (exec_setC c)).then_insertBit _ _ _ (by decide) (exec_setV v)
  rw [exec_setFlags, funext (packFlags_nzcv n z c v)]
  exact oneWrite s

end

/-- Settles O21: in the rule's order the writes compose to the packer, and they commute; the reads are the packed
value's bits; the packer and then the extractor give the value back. -/
theorem packedAndSingleFlagsAgree : Obligations.PackedAndSingleFlagsAgree := by
  unfold Obligations.PackedAndSingleFlagsAgree
  refine ⟨fun s n z c v order _ perm => ?_, fun s hd => ?_, fun s t f _ h => getFlags_reads_of_setFlags f s t h⟩
  · rw [← runAll_perm perm.symm (singleFlagWrites_commute n z c v) s]
    exact runAll_singleFlagWrites n z c v s
  · have reads := getFlags_reads s hd
    rw [extractFlags_eq_nzcv] at reads
    exact ⟨readBit s.readPsr bitN, readBit s.readPsr bitZ, readBit s.readPsr bitC, readBit s.readPsr bitV,
      reads_of_readCommand .getN _ s hd (exec_getN s), reads_of_readCommand .getZ _ s hd (exec_getZ s),
      reads_of_readCommand .getC _ s hd (exec_getC s), reads_of_readCommand .getV _ s hd (exec_getV s), reads⟩

end Sys2Proof.Machine
end

section
/-! The diagnostic field view (spec/45_diagnostic_view.md R80, R81): what the renderings of a mode field, of the execution
state and of a mask bit show, from which the view of a word is read off field by field. -/

namespace Sys2Proof.Machine

theorem modeView_of_legal (c : ModeCode) (m : Mode) (legal : modeDecode c = some m) : modeView c = .known m := by
  rw [modeView, legal]

/-- An illegal pattern is shown raw, and no mode is guessed for it (R81). -/
theorem modeView_of_illegal (c : ModeCode) (illegal : modeDecode c = none) : modeView c = .invalid c := by
  rw [modeView, illegal]

theorem stateOfBool_eq_thumb_iff (b : Bool) : stateOfBool b = .thumb ↔ b = true := by
  cases b <;> decide

theorem maskView_eq_disabled_iff (b : Bool) : maskView b = .disabled ↔ b = true := by
  cases b <;> decide

/-- Settles O55: the mode by the two cases of the decoder; the state and the masks by the bit each renders; the flags are
the bits themselves. -/
theorem diagnosticViewFields : Obligations.DiagnosticViewFields := by
  unfold Obligations.DiagnosticViewFields
  intro w
  exact ⟨modeView_of_legal (modeField w), modeView_of_illegal (modeField w), stateOfBool_eq_thumb_iff (readBit w bitT),
    maskView_eq_disabled_iff (readBit w bitI), maskView_eq_disabled_iff (readBit w bitF), rfl⟩

end Sys2Proof.Machine
end

section
/-! How an illegal mode arises (spec/60_exceptions.md R83): every command but SET leaves the mode field, puts a legal
code into it, or merges one in, and the legal codes are closed under OR (R64). -/

namespace Sys2Proof.Machine

open Sys2Proof.Stated

/-- A word that changes above the mode field only keeps the mode field. -/
theorem AgreeOutside.modeField_eq {lo width : Nat} {w w' : Word} (h : AgreeOutside lo width w w') (hlo : 5 ≤ lo) :
    modeField w' = modeField w := by
  apply BitVec.eq_of_getLsbD_eq
  intro j hj
  rw [modeField, modeField, BitVec.getLsbD_extractLsb', BitVec.getLsbD_extractLsb', h (0 + j) (by omega)]

theorem exec_read_keepsLegalMode (i : Instr) (s t : State) (hi : i.writes = false) (hs : s.LegalMode)
    (h : exec i s = .next t) : t.LegalMode := by
  have same : t.readPsr = s.readPsr := congrArg wired (exec_read_sameButRspAndLog i s t hi h).psr_eq
  rwa [State.LegalMode, same]

theorem exec_fieldWrite_keepsLegalMode (i : Instr) (s t : State) (lo width : Nat)
    (hfield : writtenField i = some (lo, width)) (hlo : 5 ≤ lo) (hs : s.LegalMode) (h : exec i s = .next t) :
    t.LegalMode := by
  rwa [State.LegalMode, (exec_agreeOutside_writtenField i s t lo width hfield h).modeField_eq hlo]

/-- A legal code written over or merged into a legal mode field leaves a legal one (R64). -/
theorem modeValid_writeModeField (p : ModeWritePolicy) (code : ModeCode) (w : Word) (hc : modeValid code = true)
    (hw : modeValid (modeField w) = true) : modeValid (modeField (writeModeField p code w)) = true := by
  cases p with
  | replace => rwa [modeField_writeModeField_replace]
  | orMerge => rw [modeField_writeModeField_orMerge]; exact modeValid_or _ code hw hc

/-- SET_MODE's answer, by its code: a raise, or `PSR` with the policy's update of the mode field (R63). -/
theorem exec_setMode_inv (code : ModeCode) (s t : State) (hd : s.resetDone = true)
    (h : exec (.setMode code) s = .next t) :
    (modeValid code = false ∧ t = s.raise (.illegalOperand code)) ∨
    (modeValid code = true ∧ t.readPsr = writeModeField s.policy code s.readPsr) := by
  cases hv : modeValid code with
  | false =>
    have raised : exec (.setMode code) s = .next (s.raise (.illegalOperand code)) :=
      setMode_raises_of_not_modeValid code s hd hv
    exact .inl ⟨rfl, Host.Outcome.next.inj (h.symm.trans raised)⟩
  | true =>
    obtain ⟨t', written, -, word⟩ := setMode_next_of_modeValid code s hd hv
    cases h.symm.trans written
    exact .inr ⟨rfl, word⟩

theorem exec_setMode_keepsLegalMode (code : ModeCode) (s t : State) (hd : s.resetDone = true) (hs : s.LegalMode)
    (h : exec (.setMode code) s = .next t) : t.LegalMode := by
  obtain ⟨-, rfl⟩ | ⟨hv, word⟩ := exec_setMode_inv code s t hd h
  · exact hs
  · rw [State.LegalMode, word]
    exact modeValid_writeModeField s.policy code s.readPsr hv hs

/-- The mode after RESET is Supervisor (R25). -/
theorem exec_reset_legalMode (s t : State) (h : exec .reset s = .next t) : t.LegalMode := by
  rw [exec_reset_frame] at h
  cases h
  change modeValid (modeField (wired resetWord)) = true
  decide

/-- The mode field after SET is that of its operand (R57). -/
theorem exec_set_modeField (v : Word) (s t : State) (h : exec (.set v) s = .next t) :
    modeField t.readPsr = modeField v := by
  rw [writeCommand_readPsr (fun _ => v &&& keepMask) s t h, modeField_wired]
  exact modeField_wired v

/-- From a legal mode a command leads to a legal mode, unless it is SET of an illegal pattern. -/
theorem exec_legalMode_or_set (i : Instr) (s t : State) (hd : s.resetDone = true) (hs : s.LegalMode)
    (h : exec i s = .next t) : t.LegalMode ∨ ∃ v, i = .set v ∧ modeValid (modeField v) = false := by
  cases i with
  | set v =>
    cases hv : modeValid (modeField v) with
    | false => exact .inr ⟨v, rfl, hv⟩
    | true => exact .inl (by rwa [State.LegalMode, exec_set_modeField v s t h])
  | reset => exact .inl (exec_reset_legalMode s t h)
  | setMode code => exact .inl (exec_setMode_keepsLegalMode code s t hd hs h)
  | setState _ | setFiqDis _ | setIrqDis _ | setV _ | setC _ | setZ _ | setN _ | setFlags _ =>
    exact .inl (exec_fieldWrite_keepsLegalMode _ s t _ _ rfl (by decide) hs h)
  | nop | get | getState | getMode | getIrqDis | getFiqDis | getN | getZ | getC | getV | getFlags =>
    exact .inl (exec_read_keepsLegalMode _ s t rfl hs h)

theorem runCommand_legalMode_or_set (op : OpCode) (w : Word) (s t : State) (hd : s.resetDone = true)
    (hs : s.LegalMode) (h : runCommand op w s = .next t) :
    t.LegalMode ∨ op = 0b00011#5 ∧ modeValid (modeField w) = false := by
  obtain ⟨i, hi, run⟩ | ⟨-, run⟩ := runCommand_cases op w s
  · obtain legal | ⟨v, rfl, illegal⟩ := exec_legalMode_or_set i s t hd hs (run ▸ h)
    · exact .inl legal
    · obtain ⟨rfl, -⟩ := decodeCommand_ok op w (.set v) hi
      cases hi
      exact .inr ⟨rfl, illegal⟩
  · obtain ⟨-, rfl⟩ := raiseCommand_inv _ s t (run ▸ h)
    exact .inl hs

/-- Settles O34: the command of the step is the only thing in it that changes `PSR`, and of the commands only SET can
lose a legal mode; under `Replace` a SET_MODE that does not raise leaves its legal code. -/
theorem illegalModeComesOnlyFromSet : Obligations.IllegalModeComesOnlyFromSet := by
  unfold Obligations.IllegalModeComesOnlyFromSet
  refine ⟨fun s t hd hs h lost => ?_, fun s t code hp h hok hd => ?_⟩
  · obtain ⟨-, rfl⟩ | ⟨x, rest, hx, -, ⟨-, rfl⟩ | ⟨hv, run⟩⟩ := step_cases s t h
    · exact absurd hs lost
    · rw [State.LegalMode, readPsr_idle, readPsr_observeTaps] at lost
      exact absurd hs lost
    · have doneAtCommand : ((s.withSchedule rest).observeTaps x.tapRead).resetDone = true := by
        rw [observeTaps_resetDone]
        exact hd
      have legalAtCommand : ((s.withSchedule rest).observeTaps x.tapRead).LegalMode := by
        rw [State.LegalMode, readPsr_observeTaps]
        exact hs
      obtain legal | ⟨hop, illegal⟩ := runCommand_legalMode_or_set _ _ _ t doneAtCommand legalAtCommand run
      · exact absurd legal lost
      · exact ⟨x, rest, hx, hv, hop, illegal⟩
  · obtain ⟨-, rfl⟩ | ⟨hv, word⟩ := exec_setMode_inv code s t hd h
    · cases hok
    · rwa [State.LegalMode, word, hp, modeField_writeModeField_replace]

end Sys2Proof.Machine
end

section
/-! Raises (spec/60_exceptions.md R82 to R87, R92). A command on the port succeeds and records nothing, or it raises the
one error that belongs to its op code; a second client is given no step at all. -/

namespace Sys2Proof.Machine

open Sys2Proof.Stated

/-- The error that belongs to this op code: with this write data, in this state, the command can raise no other. -/
def ErrorOfOp (op : OpCode) (w : Word) (s : State) : CommandError → Prop
  | .illegalCommand reserved => reserved = op ∧ 22 ≤ op.toNat
  | .illegalOperand code => code = modeOperand w ∧ op = 0b00111#5
  | .invalidMode pattern => pattern = modeField s.readPsr ∧ op = 0b00110#5

/-- A command of the map answers OK and records nothing, or it is one of the two that can raise (R83, R85). -/
theorem exec_ok_or_raise (i : Instr) (s t : State) (h : exec i s = .next t) :
    (t.rsp.err = .ok ∧ t.faultLog = s.faultLog) ∨
    (i = .getMode ∧ t = s.raise (.invalidMode (modeField s.readPsr))) ∨
    ∃ code, i = .setMode code ∧ t = s.raise (.illegalOperand code) := by
  obtain ⟨-, rfl⟩ | ⟨-, ⟨-, data, rfl⟩ | ⟨-, w, rfl⟩ | ⟨hi, -, ht⟩ | ⟨code, hi, -, ht⟩⟩ := exec_cases i s t h
  · exact .inl ⟨rfl, rfl⟩
  · exact .inl ⟨rfl, rfl⟩
  · exact .inl ⟨rfl, rfl⟩
  · exact .inr (.inl ⟨hi, ht⟩)
  · exact .inr (.inr ⟨code, hi, ht⟩)

/-- Everything a command on the port can do to the response's error and to the fault log. -/
theorem runCommand_ok_or_raise (op : OpCode) (w : Word) (s t : State) (h : runCommand op w s = .next t) :
    (t.rsp.err = .ok ∧ t.faultLog = s.faultLog) ∨ ∃ e, ErrorOfOp op w s e ∧ t = s.raise e := by
  obtain ⟨i, hi, run⟩ | ⟨reserved, run⟩ := runCommand_cases op w s
  · obtain ok | ⟨rfl, ht⟩ | ⟨code, rfl, ht⟩ := exec_ok_or_raise i s t (run ▸ h)
    · exact .inl ok
    · exact .inr ⟨.invalidMode (modeField s.readPsr), ⟨rfl, (decodeCommand_ok op w .getMode hi).1.symm⟩, ht⟩
    · obtain ⟨rfl, -⟩ := decodeCommand_ok op w (.setMode code) hi
      cases hi
      exact .inr ⟨.illegalOperand (modeOperand w), ⟨rfl, rfl⟩, ht⟩
  · obtain ⟨-, ht⟩ := raiseCommand_inv _ s t (run ▸ h)
    exact .inr ⟨.illegalCommand op, ⟨rfl, reserved⟩, ht⟩

/-! A reserved op code (R44, R84). -/

theorem reserved_iff_decodeCommand_error (op : OpCode) (w : Word) :
    22 ≤ op.toNat ↔ decodeCommand op w = .error (.reservedOp op) := by
  constructor
  · intro reserved
    cases h : decodeCommand op w with
    | ok i => exact absurd (decodeCommand_ok op w i h).2 (by omega)
    | error e => rw [(decodeCommand_error op w e h).1]
  · exact fun h => (decodeCommand_error op w _ h).2

theorem mapped_iff_decodeCommand_ok (op : OpCode) (w : Word) :
    op.toNat < 22 ↔ ∃ i, decodeCommand op w = .ok i := by
  constructor
  · intro legal
    cases h : decodeCommand op w with
    | ok i => exact ⟨i, rfl⟩
    | error e => exact absurd (decodeCommand_error op w e h).2 (by omega)
  · rintro ⟨i, h⟩
    exact (decodeCommand_ok op w i h).2

/-- A step that faces a command, without a tap read, is that command on the port. -/
theorem step_facing_command (s : State) (rest : List ClientStep) (op : OpCode) (w : Word) :
    step (facing s (command .none op w) rest) = runCommand op w (s.withSchedule rest) := by
  rw [step_cons _ (command .none op w) rest rfl, runClientStep_command _ _ rfl rfl]
  rfl

theorem exec_err_ne_illegalCommand (i : Instr) (s t : State) (h : exec i s = .next t) :
    t.rsp.err ≠ .illegalCommand := by
  obtain ⟨ok, -⟩ | ⟨-, rfl⟩ | ⟨code, -, rfl⟩ := exec_ok_or_raise i s t h
  · rw [ok]; nofun
  · nofun
  · nofun

/-- Settles O22: the decoder splits the op codes at 22, and the port raises on its rejection alone. -/
theorem reservedOpsRaiseIllegalCommand : Obligations.ReservedOpsRaiseIllegalCommand := by
  unfold Obligations.ReservedOpsRaiseIllegalCommand
  refine ⟨fun op w => ?_, fun s rest op w hd reserved => ?_, exec_err_ne_illegalCommand⟩
  · rw [decode_append]
    exact ⟨reserved_iff_decodeCommand_error op w, mapped_iff_decodeCommand_ok op w⟩
  · rw [step_facing_command, runCommand_reserved op w _ ((reserved_iff_decodeCommand_error op w).mp reserved),
      raiseCommand_next _ (s.withSchedule rest) hd]
    rfl

/-- Settles O23: the port decodes op 0b00111 to SET_MODE of its operand, whose legality decides. -/
theorem illegalModeCodesRaiseIllegalOperand : Obligations.IllegalModeCodesRaiseIllegalOperand := by
  unfold Obligations.IllegalModeCodesRaiseIllegalOperand
  intro s w hd
  have run : runCommand 0b00111#5 w s = exec (.setMode (modeOperand w)) s := runCommand_ok _ w _ s rfl
  rw [run]
  exact ⟨setMode_raises_of_not_modeValid (modeOperand w) s hd,
    fun legal => ⟨_, setMode_writes_of_modeValid (modeOperand w) s hd legal, rfl, rfl⟩⟩

/-- R86: after reset a command with a legal operand, and for GET_MODE a legal mode, succeeds. -/
theorem exec_succeeds (i : Instr) (s : State) (hd : s.resetDone = true) (hmode : i = .getMode → s.LegalMode)
    (hwf : i.WellFormed) : ∃ t, exec i s = .next t ∧ t.rsp.err = .ok ∧ t.faultLog = s.faultLog := by
  obtain rfl | ⟨-, d, e⟩ | ⟨-, u, e⟩ | ⟨rfl, illegal, -⟩ | ⟨code, rfl, illegal, -⟩ := exec_shape i s
  · exact ⟨_, exec_reset s, rfl, rfl⟩
  · exact ⟨_, e.trans (readCommand_next d s hd), rfl, rfl⟩
  · exact ⟨_, e.trans (writeCommand_next u s hd), rfl, rfl⟩
  · exact absurd (hmode rfl) (Bool.eq_false_iff.mp ((modeValid_eq_false_iff _).mpr illegal))
  · exact absurd hwf (Bool.eq_false_iff.mp ((modeValid_eq_false_iff code).mpr illegal))

/-- Wiring leaves the control byte, the mode field in it (R13, R15). -/
theorem extractLsb'_controlByte_wired (w : Word) : (wired w).extractLsb' 0 8 = w.extractLsb' 0 8 := by
  apply BitVec.eq_of_getLsbD_eq
  intro j hj
  have stored : 0 + j < 8 ∨ (28 ≤ 0 + j ∧ 0 + j < 32) := by omega
  rw [BitVec.getLsbD_extractLsb', BitVec.getLsbD_extractLsb', getLsbD_wired, decide_eq_true stored, Bool.and_true]

/-- Settles O25: by `exec_succeeds`; what SET stores is its operand, wired. -/
theorem noOtherCommandFails : Obligations.NoOtherCommandFails := by
  unfold Obligations.NoOtherCommandFails
  refine ⟨exec_succeeds, fun s t v hd h => ?_⟩
  have stored : t.psr = wired v := congrArg State.psr (Host.Outcome.next.inj (h.symm.trans (set_writes v s hd)))
  rw [stored]
  exact ⟨extractLsb'_reserved_wired v, extractLsb'_controlByte_wired v⟩

/-- `t` has the fault log of `s` with at most `n` faults added at its end. -/
def GrowsLogBy (n : Nat) (s t : State) : Prop :=
  ∃ added, t.faultLog = s.faultLog ++ added ∧ added.length ≤ n

theorem growsLogBy_of_eq (n : Nat) {s t : State} (h : t.faultLog = s.faultLog) : GrowsLogBy n s t :=
  ⟨[], by rw [h, List.append_nil], Nat.zero_le n⟩

theorem GrowsLogBy.trans {m n : Nat} {s t u : State} (hst : GrowsLogBy m s t) (htu : GrowsLogBy n t u) :
    GrowsLogBy (m + n) s u := by
  obtain ⟨first, hfirst, hm⟩ := hst
  obtain ⟨second, hsecond, hn⟩ := htu
  refine ⟨first ++ second, by rw [hsecond, hfirst, List.append_assoc], ?_⟩
  rw [List.length_append]
  exact Nat.add_le_add hm hn

theorem observeTaps_growsLog (s : State) (r : TapRead) : GrowsLogBy 1 s (s.observeTaps r) := by
  obtain ⟨added, short, h⟩ := observeTaps_eq s r
  exact ⟨added, by rw [h], short⟩

theorem runCommand_growsLog (op : OpCode) (w : Word) (s t : State) (h : runCommand op w s = .next t) :
    GrowsLogBy 1 s t := by
  obtain ⟨-, same⟩ | ⟨e, -, rfl⟩ := runCommand_ok_or_raise op w s t h
  · exact growsLogBy_of_eq 1 same
  · exact ⟨[.error e], raise_faultLog s e, Nat.le_refl 1⟩

/-- Settles O35: the tap read adds at most one fault and the command after it at most one more. -/
theorem faultLogOnlyGrows : Obligations.FaultLogOnlyGrows := by
  unfold Obligations.FaultLogOnlyGrows
  intro s t h
  obtain ⟨-, rfl⟩ | ⟨x, rest, -, -, ⟨-, rfl⟩ | ⟨-, run⟩⟩ := step_cases s t h
  · exact growsLogBy_of_eq 2 (idle_faultLog s)
  · exact (observeTaps_growsLog (s.withSchedule rest) x.tapRead).trans (growsLogBy_of_eq 1 (idle_faultLog _))
  · exact (observeTaps_growsLog (s.withSchedule rest) x.tapRead).trans (runCommand_growsLog _ _ _ t run)

/-- R83 to R85: the response names the error, its value in bits 4:0 of `rsp_data`. -/
theorem error_eq_of_response (e : CommandError) :
    e = .invalidMode ((errorInfo e).extractLsb' 0 5) ∧ errorCode e = .invalidMode ∨
    e = .illegalCommand ((errorInfo e).extractLsb' 0 5) ∧ errorCode e = .illegalCommand ∨
    e = .illegalOperand ((errorInfo e).extractLsb' 0 5) ∧ errorCode e = .illegalOperand := by
  cases e with
  | invalidMode pattern => exact .inl ⟨congrArg _ (modeOperand_setWidth pattern).symm, rfl⟩
  | illegalCommand op => exact .inr (.inl ⟨congrArg _ (modeOperand_setWidth op).symm, rfl⟩)
  | illegalOperand code => exact .inr (.inr ⟨congrArg _ (modeOperand_setWidth code).symm, rfl⟩)

/-- The value of an error is zero-extended from 5 bits. -/
theorem errorInfo_eq_setWidth (e : CommandError) : ∃ value : BitVec 5, errorInfo e = value.setWidth 32 := by
  cases e with
  | invalidMode pattern => exact ⟨pattern, rfl⟩
  | illegalCommand op => exact ⟨op, rfl⟩
  | illegalOperand code => exact ⟨code, rfl⟩

theorem extractLsb'_above_setWidth (value : BitVec 5) : (value.setWidth 32).extractLsb' 5 27 = 0#27 := by
  apply BitVec.eq_of_getLsbD_eq
  intro j _
  rw [BitVec.getLsbD_extractLsb', BitVec.getLsbD_setWidth, BitVec.getLsbD_of_ge value (5 + j) (by omega),
    Bool.and_false, Bool.and_false, BitVec.getLsbD_zero]

/-- A step that answers an error ends with the raise of its command, after the step's tap read. -/
theorem step_err_inv (s t : State) (h : step s = .next t) (herr : t.rsp.err ≠ .ok) :
    ∃ rest r e, t = ({ s with schedule := rest }.observeTaps r).raise e := by
  obtain ⟨-, rfl⟩ | ⟨x, rest, -, -, ⟨-, rfl⟩ | ⟨-, run⟩⟩ := step_cases s t h
  · exact absurd rfl herr
  · exact absurd rfl herr
  · obtain ⟨ok, -⟩ | ⟨e, -, ht⟩ := runCommand_ok_or_raise _ _ _ t run
    · exact absurd ok herr
    · exact ⟨rest, x.tapRead, e, ht⟩

/-- Settles O36: the raise and the tap read before it change the response and the fault log only, and the raise comes
last. -/
theorem raiseLeavesTheBlockUnchanged : Obligations.RaiseLeavesTheBlockUnchanged := by
  unfold Obligations.RaiseLeavesTheBlockUnchanged
  intro s t h herr
  obtain ⟨rest, r, e, rfl⟩ := step_err_inv s t h herr
  refine ⟨by rw [raise_psr, observeTaps_psr], by rw [raise_resetDone, observeTaps_resetDone],
    by rw [raise_policy, observeTaps_policy], e, by rw [raise_faultLog, List.getLast?_concat], ?_⟩
  rw [raise_rsp]
  obtain ⟨value, info⟩ := errorInfo_eq_setWidth e
  exact ⟨error_eq_of_response e, by rw [info, extractLsb'_above_setWidth]⟩

/-- Settles O37: the errors of `ErrorOfOp`, one per op code. -/
theorem eachErrorBelongsToOneOp : Obligations.EachErrorBelongsToOneOp := by
  unfold Obligations.EachErrorBelongsToOneOp
  intro op w s t h
  obtain ⟨-, same⟩ | ⟨e, belongs, rfl⟩ := runCommand_ok_or_raise op w s t h
  · exact .inl same
  cases e with
  | illegalCommand reserved =>
    obtain ⟨rfl, hop⟩ := belongs
    exact .inr (.inl ⟨hop, rfl⟩)
  | illegalOperand code =>
    obtain ⟨rfl, hop⟩ := belongs
    exact .inr (.inr (.inl ⟨hop, rfl⟩))
  | invalidMode pattern =>
    obtain ⟨rfl, hop⟩ := belongs
    exact .inr (.inr (.inr ⟨hop, rfl⟩))

/-- Settles O44: the port refuses the entry before it looks at the rest of it. -/
theorem secondClientHasNoStep : Obligations.SecondClientHasNoStep := by
  unfold Obligations.SecondClientHasNoStep
  intro s x rest hs second
  rw [step_cons s x rest hs, runClientStep_second x _ second]

end Sys2Proof.Machine
end

section
/-! Saving and restoring the status word (spec/60_exceptions.md R88): GET answers what `PSR` reads as, and SET of that
word needs nothing of the state it runs in but that it is after reset, which every program keeps. -/

namespace Sys2Proof.Machine

/-- What every command keeps, every program keeps. -/
theorem runAll_keeps (P : State → Prop) (keeps : ∀ i s t, P s → exec i s = .next t → P t) (program : List Instr) :
    ∀ s u, P s → runAll program s = .next u → P u := by
  induction program with
  | nil =>
    intro s u hs h
    cases h
    exact hs
  | cons i rest ih =>
    intro s u hs h
    obtain ⟨t, ht, hu⟩ := runAll_cons_inv i rest s u h
    exact ih t u (keeps i s t hs ht) hu

theorem runAll_resetDone (program : List Instr) (s u : State) (hd : s.resetDone = true)
    (h : runAll program s = .next u) : u.resetDone = true :=
  runAll_keeps (fun x => x.resetDone = true) (fun i s t hs ht => (exec_keepsEnvironment i s t ht).resetDone hs)
    program s u hd h

/-- SET of a word that `PSR` once read as makes it read so again, since that word is wired (R14, R57). -/
theorem set_readPsr_restores (s u : State) (hd : u.resetDone = true) :
    ∃ v, exec (.set s.readPsr) u = .next v ∧ v.readPsr = s.readPsr := by
  have masked : s.readPsr &&& keepMask = s.readPsr := wired_readPsr s
  refine ⟨_, set_writes s.readPsr u hd, ?_⟩
  rw [masked]
  exact wired_readPsr s

/-- Settles O48: GET saves what `PSR` reads as, the program between leaves the machine after reset, and SET restores. -/
theorem savedWordRestoresExactly : Obligations.SavedWordRestoresExactly := by
  unfold Obligations.SavedWordRestoresExactly
  intro s t u between hget hbetween
  obtain ⟨hd, rfl⟩ := readCommand_inv (fun psr => psr) s t hget
  exact set_readPsr_restores s u (runAll_resetDone between (s.respond .ok s.readPsr) u hd hbetween)

end Sys2Proof.Machine
end

section
/-! The time before the first RESET (spec/70_reset_and_hazards.md R95). RESET alone runs in it, the taps give no value,
and nothing a step does depends on the unspecified power-on word. -/

namespace Sys2Proof.Machine

open Sys2Proof.Stated

/-- Before reset the port refuses every op code but RESET's, a reserved one too (R95). -/
theorem runCommand_beforeReset (op : OpCode) (w : Word) (s : State) (hop : op ≠ 0b00001#5)
    (h : s.resetDone = false) : runCommand op w s = .refused .beforeReset := by
  obtain ⟨i, hi, run⟩ | ⟨-, run⟩ := runCommand_cases op w s
  · have notReset : i ≠ .reset := by
      rintro rfl
      exact hop (decodeCommand_ok op w .reset hi).1.symm
    rw [run, exec_beforeReset i s notReset h]
  · rw [run, raiseCommand, afterReset_refused s _ h]

theorem runCommand_reset (w : Word) (s : State) : runCommand 0b00001#5 w s = exec .reset s :=
  runCommand_ok _ w _ s rfl

theorem readTaps_beforeReset (s : State) (h : s.resetDone = false) : s.readTaps = .error .tapReadBeforeReset :=
  if_neg (Bool.eq_false_iff.mp h)

theorem readModeTaps_beforeReset (s : State) (h : s.resetDone = false) :
    s.readModeTaps = .error .tapReadBeforeReset := if_neg (Bool.eq_false_iff.mp h)

/-- Settles O42: the command by its op code, the taps by the gate they share with the commands. -/
theorem beforeResetOnlyResetRuns : Obligations.BeforeResetOnlyResetRuns := by
  unfold Obligations.BeforeResetOnlyResetRuns
  intro s rest op w hd
  refine ⟨fun hop => ?_, ?_, readTaps_beforeReset s hd, readModeTaps_beforeReset s hd, fun r hr => ?_⟩
  · rw [step_facing_command, runCommand_beforeReset op w (s.withSchedule rest) hop hd]
  · rw [step_facing_command, runCommand_reset, exec_reset_frame]
    exact ⟨_, rfl, rfl, rfl⟩
  · refine ⟨_, step_facing_tapRead_noCommand s rest op w r, ?_⟩
    rw [idle_faultLog, observeTaps_beforeReset (s.withSchedule rest) r hd hr]
    rfl

/-- The state with another status word. -/
def State.withPsr (p : Word) (s : State) : State := { s with psr := p }

/-- Before reset a tap read does not look at the status word: it is a fault whatever that word is (R95). -/
theorem observeTaps_withPsr (s : State) (p : Word) (r : TapRead) (h : s.resetDone = false) :
    (s.withPsr p).observeTaps r = (s.observeTaps r).withPsr p := by
  by_cases hr : r = .none
  · rw [hr]
    rfl
  · rw [observeTaps_beforeReset s r h hr, observeTaps_beforeReset (s.withPsr p) r h hr]
    rfl

/-- Before reset a command is RESET, which overwrites the whole word (R55), or is refused (R95). -/
theorem runCommand_withPsr (op : OpCode) (w : Word) (s : State) (p : Word) (h : s.resetDone = false) :
    runCommand op w (s.withPsr p) = runCommand op w s := by
  by_cases hop : op = 0b00001#5
  · rw [hop, runCommand_reset, runCommand_reset, exec_reset_frame, exec_reset_frame]
    rfl
  · rw [runCommand_beforeReset op w s hop h, runCommand_beforeReset op w (s.withPsr p) hop h]

/-- Before reset an idle step keeps the word, so it differs in nothing but that word. -/
theorem forgetUnsetPsr_idle_withPsr (s : State) (p : Word) (h : s.resetDone = false) :
    forgetUnsetPsr (s.withPsr p).idle = forgetUnsetPsr s.idle := by
  have unset : ¬ s.resetDone = true := Bool.eq_false_iff.mp h
  exact (if_neg unset).trans (if_neg unset).symm

/-- From these two states a run answers the same but for a status word no RESET has set. -/
abbrev SameButUnsetPsr (run : State → Result) (s s' : State) : Prop :=
  mapNext forgetUnsetPsr (run s) = mapNext forgetUnsetPsr (run s')

theorem runClientStep_sameButUnsetPsr (x : ClientStep) (s : State) (p : Word) (h : s.resetDone = false) :
    SameButUnsetPsr (runClientStep x) (s.withPsr p) s := by
  have observed : (s.observeTaps x.tapRead).resetDone = false := (observeTaps_resetDone s x.tapRead).trans h
  cases hc : x.client with
  | second => rw [SameButUnsetPsr, runClientStep_second x _ hc, runClientStep_second x _ hc]
  | owner =>
    cases hv : x.cmdValid with
    | false =>
      rw [SameButUnsetPsr, runClientStep_noCommand x _ hc hv, runClientStep_noCommand x _ hc hv,
        observeTaps_withPsr s p _ h]
      exact congrArg Host.Outcome.next (forgetUnsetPsr_idle_withPsr _ p observed)
    | true =>
      rw [SameButUnsetPsr, runClientStep_command x _ hc hv, runClientStep_command x _ hc hv,
        observeTaps_withPsr s p _ h, runCommand_withPsr _ _ _ p observed]

theorem step_sameButUnsetPsr (s : State) (p : Word) (h : s.resetDone = false) :
    SameButUnsetPsr step (s.withPsr p) s := by
  cases hs : s.schedule with
  | nil =>
    rw [SameButUnsetPsr, step_nil s hs, step_nil (s.withPsr p) hs]
    exact congrArg Host.Outcome.next (forgetUnsetPsr_idle_withPsr s p h)
  | cons x rest =>
    rw [SameButUnsetPsr, step_cons s x rest hs, step_cons (s.withPsr p) x rest hs]
    exact runClientStep_sameButUnsetPsr x (s.withSchedule rest) p h

/-- Settles O43: either power-on word gives the step of the state itself, but for that word. -/
theorem powerOnWordIsUnobservable : Obligations.PowerOnWordIsUnobservable := by
  unfold Obligations.PowerOnWordIsUnobservable
  exact fun s p q hd => (step_sameButUnsetPsr s p hd).trans (step_sameButUnsetPsr s q hd).symm

end Sys2Proof.Machine
end

section
/-! Taps in the step of a command (spec/70_reset_and_hazards.md R97). A tap read adds at most a fault to the log, and
after reset a command only appends to whatever log it finds, so the read shows in the log alone. -/

namespace Sys2Proof.Machine

open Sys2Proof.Stated

/-- A step with a tap read and a command reads the taps and then runs the command (R39, R47). -/
theorem step_facing_tapRead_command (s : State) (rest : List ClientStep) (r : TapRead) (op : OpCode) (w : Word) :
    step (facing s (command r op w) rest) = runCommand op w ((s.withSchedule rest).observeTaps r) := by
  rw [step_cons _ (command r op w) rest rfl, runClientStep_command _ _ rfl rfl]
  rfl

/-- After reset a raw read leaves the step as it is without one (R47). -/
theorem step_facing_raw (s : State) (rest : List ClientStep) (op : OpCode) (w : Word) (hd : s.resetDone = true) :
    step (facing s (command .raw op w) rest) = runCommand op w (s.withSchedule rest) := by
  rw [step_facing_tapRead_command, observeTaps_raw (s.withSchedule rest) hd]

/-- After reset a typed read in a legal mode leaves the step as it is without one (R61). -/
theorem step_facing_typedMode_legal (s : State) (rest : List ClientStep) (op : OpCode) (w : Word)
    (hd : s.resetDone = true) (legal : s.LegalMode) :
    step (facing s (command .typedMode op w) rest) = runCommand op w (s.withSchedule rest) := by
  obtain ⟨m, hm⟩ := (modeValid_iff _).mp legal
  rw [step_facing_tapRead_command, observeTaps_typed_legal (s.withSchedule rest) m hd hm]

/-- After reset a typed read in an illegal mode puts its fault, with the old pattern, before the command (R61, R83). -/
theorem step_facing_typedMode_illegal (s : State) (rest : List ClientStep) (op : OpCode) (w : Word)
    (hd : s.resetDone = true) (illegal : ¬ s.LegalMode) :
    step (facing s (command .typedMode op w) rest) =
      runCommand op w
        ((s.withSchedule rest).withLog (s.faultLog ++ [.error (.invalidMode (modeField s.readPsr))])) := by
  have hm := (modeValid_eq_false_iff _).mp (Bool.eq_false_iff.mpr illegal)
  rw [step_facing_tapRead_command, observeTaps_typed_illegal (s.withSchedule rest) hd hm]
  rfl

theorem reset_writes (s : State) (hd : s.resetDone = true) : Writes .reset s 0x000000D3#32 := by
  rw [Writes, exec_reset_frame, ← hd]
  rfl

/-- On the port, a command that decodes to a write leaves that word and records nothing. -/
theorem psr_and_added_of_writes {op : OpCode} {w : Word} {i : Instr} {s t : State} {psr : Word} {added : List Fault}
    (decoded : decodeCommand op w = .ok i) (writes : Writes i s psr) (run : runCommand op w s = .next t)
    (log : t.faultLog = s.faultLog ++ added) : t.psr = psr ∧ added = [] := by
  rw [runCommand_ok op w i s decoded] at run
  cases run.symm.trans writes
  exact ⟨rfl, List.append_right_eq_self.mp log.symm⟩

/-- Settles O46: the step without a tap read, with one fault more in the log it starts from when the typed read is a
fault; each writer of the mode field leaves its word as it does without a tap read. -/
theorem tapsShowTheOldValueInTheWriteStep : Obligations.TapsShowTheOldValueInTheWriteStep := by
  unfold Obligations.TapsShowTheOldValueInTheWriteStep
  intro s rest op w hd
  obtain ⟨t, added, log, answer⟩ := runCommand_appendsToLog op w (s.withSchedule rest) hd
  have run : runCommand op w (s.withSchedule rest) = .next t := by
    have same := answer (s.withSchedule rest).faultLog
    rwa [← log] at same
  refine ⟨t, added, (step_facing_command s rest op w).trans run, log, (step_facing_raw s rest op w hd).trans run,
    fun legal => (step_facing_typedMode_legal s rest op w hd legal).trans run, fun illegal => ?_,
    fun hop => ?_, fun hop => ?_, fun hop hv => ?_⟩
  · rw [step_facing_typedMode_illegal s rest op w hd illegal, State.withLog, answer, List.append_assoc]
    rfl
  · subst hop
    exact psr_and_added_of_writes rfl (reset_writes (s.withSchedule rest) hd) run log
  · subst hop
    exact psr_and_added_of_writes rfl (set_writes w (s.withSchedule rest) hd) run log
  · subst hop
    have writes := setMode_writes_of_modeValid (modeOperand w) (s.withSchedule rest) hd hv
    obtain ⟨word, silent⟩ := psr_and_added_of_writes rfl writes run log
    have byPolicy : t.psr = writeModeField s.policy (modeOperand w) s.readPsr := word
    exact ⟨silent, fun hp => by rw [byPolicy, hp]; rfl, fun hp => by rw [byPolicy, hp]; rfl⟩

end Sys2Proof.Machine
end

section
/-! What a client's words and modes lead to (spec/70_reset_and_hazards.md R98, R99): after SET the operand's mode field
decides what GET_MODE answers, and over a cleared mode field both policies of SET_MODE leave the code. -/

namespace Sys2Proof.Machine

open Sys2Proof.Stated

/-- Settles O50: the mode field after SET is that of its operand, and GET answers what `PSR` reads as. -/
theorem setWordDecidesTheModeRead : Obligations.SetWordDecidesTheModeRead := by
  unfold Obligations.SetWordDecidesTheModeRead
  refine ⟨fun s t w before h => ?_, fun s t legal h => ?_⟩
  · have hd : t.resetDone = true := (exec_keepsEnvironment _ s t h).resetDone before
    have field : modeField t.readPsr = modeField w := exec_set_modeField w s t h
    have reads := getMode_reads_of_modeValid t hd
    have raises := getMode_raises_of_not_modeValid t hd
    rw [field] at reads raises
    exact ⟨reads, fun illegal => raises (Bool.eq_false_iff.mpr illegal)⟩
  · obtain ⟨-, rfl⟩ := readCommand_inv (fun psr => psr) s t h
    exact legal

/-- The word R99 has a client write first: its mode field is 0. -/
theorem modeField_cleared (w : Word) : modeField (w &&& 0xFFFFFFE0#32) = 0b00000#5 := by
  have replaced : writeModeField .replace 0b00000#5 w = w &&& 0xFFFFFFE0#32 := BitVec.or_zero
  rw [← replaced, modeField_writeModeField_replace]

/-- Over a cleared mode field either policy leaves the code (R99). -/
theorem modeField_writeModeField_of_cleared (p : ModeWritePolicy) (code : ModeCode) (w : Word)
    (cleared : modeField w = 0b00000#5) : modeField (writeModeField p code w) = code := by
  cases p with
  | replace => exact modeField_writeModeField_replace code w
  | orMerge => rw [modeField_writeModeField_orMerge, cleared, BitVec.zero_or]

/-- SET_MODE m from a cleared mode field, then GET_MODE, answers m under either policy (R99). -/
theorem getMode_reads_of_setMode_cleared (m : ModeCode) (s : State) (hd : s.resetDone = true)
    (hv : modeValid m = true) (cleared : modeField s.readPsr = 0b00000#5) :
    ∃ t, exec (.setMode m) s = .next t ∧ Reads .getMode t (m.setWidth 32) := by
  obtain ⟨t, ht, done, word⟩ := setMode_next_of_modeValid m s hd hv
  have field : modeField t.readPsr = m := by rw [word, modeField_writeModeField_of_cleared s.policy m _ cleared]
  have reads := getMode_reads_of_modeValid t done (field.symm ▸ hv)
  rw [field] at reads
  exact ⟨t, ht, reads⟩

/-- Settles O49: under `OrMerge` the field becomes the OR, which is m where no other bit was set; the cleared word
leaves the illegal pattern 0, from which either policy leaves m; `Replace` leaves m from any field. -/
theorem clearingTheFieldMakesSetModeSafe : Obligations.ClearingTheFieldMakesSetModeSafe := by
  unfold Obligations.ClearingTheFieldMakesSetModeSafe
  intro s m hd hv
  refine ⟨fun hp => ?_, ?_, fun hp => ?_⟩
  · obtain ⟨t, ht, field, -⟩ := setMode_orMerge m s hd hp hv
    refine ⟨t, ht, ?_⟩
    change modeField t.readPsr = m ↔ _
    rw [field]
    exact or_eq_right_iff_and_not_eq_zero (modeField s.readPsr) m
  · have hget := get_reads s hd
    obtain ⟨u, hu⟩ := exec_completes (.set (s.readPsr &&& 0xFFFFFFE0#32)) (s.respond .ok s.readPsr) hd
    have cleared : modeField u.readPsr = 0b00000#5 := (exec_set_modeField _ _ u hu).trans (modeField_cleared s.readPsr)
    have illegal : ¬ u.LegalMode := by
      rw [State.LegalMode, cleared]
      decide
    have done : u.resetDone = true := (exec_keepsEnvironment _ _ u hu).resetDone hd
    obtain ⟨v, hsetMode, reads⟩ := getMode_reads_of_setMode_cleared m u done hv cleared
    exact ⟨_, u, v, hget, hu, cleared, illegal, hsetMode, reads⟩
  · obtain ⟨t, ht, -, word⟩ := setMode_next_of_modeValid m s hd hv
    refine ⟨t, ht, ?_⟩
    change modeField t.readPsr = m
    rw [word, hp, modeField_writeModeField_replace]

end Sys2Proof.Machine
end
